-- ==== Sys2Proof/Word.lean ====
section
/-! DEFINITION. The word type of the input buffer. -/

namespace Sys2Proof

/-- A byte is 8 bits (20_memory R61). -/
abbrev Byte := BitVec 8

end Sys2Proof
end

