-- ==== Sys2Proof/Syntax.lean ====
section
/-! DEFINITION. The commands of the block (30_encoding R95), one constructor per row of spec/opcode_table.json, and the
host transactions of 30_encoding R102. -/

namespace Sys2Proof

/-- A command: what a write to `CMD` starts. A command has no operand bits (30_encoding R95); `reserved` keeps the code
that was written, since 248 codes share that row. -/
inductive Instr where
  /-- 0x00, clear status and invalidate every output (45_control R215). -/
  | clr
  /-- 0x01, bit-field extraction (40_bitfield_extract R112). -/
  | bfx
  /-- 0x02, decode a Packet ID (41_primary_header R131). -/
  | dpid
  /-- 0x03, decode a Packet Sequence Control word (41_primary_header R136). -/
  | dpsc
  /-- 0x04, decode a Source Packet Header (41_primary_header R139). -/
  | dsph
  /-- 0x05, run the time resolver (42_time_resolver R151). -/
  | tres
  /-- 0x06, decode a Data Field Header (43_data_field_header R181). -/
  | ddfh
  /-- 0x07, decode a whole packet (44_packet_decoder R196). -/
  | dpkt
  /-- 0x08 to 0xFF, a reserved command code (45_control R217). -/
  | reserved (code : BitVec 8)
deriving DecidableEq, Repr

/-- One move of the host between commands (30_encoding R102; reset: 70_reset_and_hazards R261). -/
inductive HostAction where
  /-- `(WR, n, v)`: write `v` to register number `n`; `n = 0x00` starts a command. -/
  | writeReg (n : Nat) (v : Int)
  /-- `(WB, a, b)`: store byte `b` at offset `a` of `BUF`. -/
  | writeByte (a : Nat) (b : Byte)
  /-- `(RD, n)`: read register number `n`. -/
  | readReg (n : Nat)
  /-- Read back the byte at offset `a` of `BUF`, whose access is `HW` (10_state R27, R22). -/
  | readByte (a : Nat)
  /-- The reset input of the block. -/
  | reset
deriving DecidableEq, Repr

end Sys2Proof
end

