-- ==== Sys2Proof/WellFormed.lean ====
section
/-! DEFINITION. Which terms of `Instr` are commands of the block (30_encoding R95). -/

namespace Sys2Proof

/-- The reserved codes are 0x08 to 0xFF (30_encoding R95, R99); every other command is well formed. -/
def Instr.wellFormed : Instr → Bool
  | .clr => true
  | .bfx => true
  | .dpid => true
  | .dpsc => true
  | .dsph => true
  | .tres => true
  | .ddfh => true
  | .dpkt => true
  | .reserved code => 8 ≤ code.toNat

end Sys2Proof
end

