-- ==== Sys2Proof/Decode.lean ====
section
/-! DEFINITION. The command codes of 30_encoding R95: decoder, encoder, and the decoder over the opcode table's bit
numbering. -/

namespace Sys2Proof

/-- Why a sequence of bytes is no command. -/
inductive DecodeError where
  /-- No byte was written, so there is no command code. -/
  | noByte
deriving DecidableEq, Repr

/-- The command whose code is `c`: the code is the whole 8-bit value written to `CMD` (30_encoding R95), and every value
not in the map is a reserved code (30_encoding R99). -/
def decode (c : BitVec 8) : Instr :=
  match c.toNat with
  | 0x00 => .clr
  | 0x01 => .bfx
  | 0x02 => .dpid
  | 0x03 => .dpsc
  | 0x04 => .dsph
  | 0x05 => .tres
  | 0x06 => .ddfh
  | 0x07 => .dpkt
  | _ => .reserved c

/-- The command at the head of a sequence of codes, and the rest of the sequence. -/
def decodeBytes : List Byte → Except DecodeError (Instr × List Byte)
  | [] => .error .noByte
  | c :: rest => .ok (decode c, rest)

/-- The code that a host writes to `CMD` for a command (30_encoding R95). -/
def encode : Instr → BitVec 8
  | .clr => 0x00
  | .bfx => 0x01
  | .dpid => 0x02
  | .dpsc => 0x03
  | .dsph => 0x04
  | .tres => 0x05
  | .ddfh => 0x06
  | .dpkt => 0x07
  | .reserved code => code

/-- The code byte of an opcode-table word: the table numbers the bits of the one 8-bit value written to `CMD`, so a row's
word is that value; a word that does not fit one byte is no command. -/
def codeOfTableWord (nbits w : Nat) : Option (BitVec 8) :=
  if w % 2 ^ nbits < 256 then some (BitVec.ofNat 8 (w % 2 ^ nbits)) else none

/-- The command the decoder reads from the opcode-table word `w` of `nbits` bits. -/
def decodeTableWord (nbits w : Nat) : Option Instr :=
  match codeOfTableWord nbits w with
  | some c =>
    match decodeBytes [c] with
    | .ok (i, _) => some i
    | .error _ => none
  | none => none

end Sys2Proof
end

