-- ==== Sys2Proof/Config.lean ====
section
/-! DEFINITION. What an implementation fixes (00_scope R6), the signals of the ephemeris port (42_time_resolver R160), and
the values the spec leaves free. -/

namespace Sys2Proof

/-- `USEC_ROUNDING`: how a 2^-16 s fraction becomes microseconds (00_scope R6, 42_time_resolver R156). -/
inductive UsecRounding where
  | halfEven
  | truncate
deriving DecidableEq, Repr

/-- The five implementation parameters of 00_scope R6, one configuration record. -/
structure Config where
  /-- `BUF_MAX`: capacity of the input buffer in bytes. -/
  bufMax : Nat
  /-- `WL_MAX`: entries in the width list of BFX. -/
  wlMax : Nat
  /-- `FIELD_MAX`: largest width, in bits, of one BFX field. -/
  fieldMax : Nat
  /-- `USEC_ROUNDING`. -/
  usecRounding : UsecRounding
  /-- `CHECK_LENGTH`: whether DPKT compares the decoded length with the buffer size. -/
  checkLength : Bool
deriving DecidableEq, Repr

/-- The default column of 00_scope R6. -/
def Config.defaults : Config where
  bufMax := 65542
  wlMax := 16
  fieldMax := 64
  usecRounding := .halfEven
  checkLength := false

/-- The constraint column of 00_scope R6. -/
abbrev Config.WellFormed (c : Config) : Prop :=
  16 ≤ c.bufMax ∧ c.bufMax < 2 ^ 28 ∧ 9 ≤ c.wlMax ∧ c.wlMax ≤ 16 ∧ 31 ≤ c.fieldMax

/-- The request signals of the ephemeris port (42_time_resolver R160). -/
structure EphRequest where
  /-- `eph_req_mission`, signed. -/
  mission : BitVec 32
  /-- `eph_req_coarse`. -/
  coarse : BitVec 31
  /-- `eph_req_fine`. -/
  fine : BitVec 16
  /-- `eph_req_digits`, the `precisionDigits`. -/
  digits : BitVec 4
deriving DecidableEq, Repr

/-- The response signals of the ephemeris port (42_time_resolver R160). `cal` has no meaning when `ok = 0`. -/
structure EphAnswer where
  /-- `eph_rsp_ok`. -/
  ok : BitVec 1
  /-- `eph_rsp_cal`, signed: a count of 10^-5 s from 1970-01-01T00:00:00. -/
  cal : BitVec 64
deriving DecidableEq, Repr, Inhabited

/-- FREE VALUE (log 8): what the ephemeris service answers to its `n`-th request where the state lists no answer; no law
holds of it (42_time_resolver R161). -/
opaque Config.ephAnswer (n : Nat) (r : EphRequest) : EphAnswer

/-- FREE VALUE (log 11): what `UTC_VAL` holds where `t0 + elapsed` does not fit 64 signed bits. With `T0_US` in its legal
range it always fits (42_time_resolver R158); the spec states no result elsewhere. -/
opaque Config.utcOverflow (t0 : BitVec 64) (elapsedUs : Nat) : BitVec 64

end Sys2Proof
end

