-- ==== Sys2Proof/Machine/State.lean ====
section
/-! DEFINITION. The state of one block (10_state R20), the reasons a step can stop, and the state after reset
(70_reset_and_hazards R260). -/

namespace Sys2Proof.Machine

/-- Why the machine stops with a fault. No command raises one: an error of the block is recorded in its registers
(60_exceptions R232) and is a next state. -/
inductive Fault where
  /-- Raised by a host read of output register `n` whose valid bit is 0, or of `BFX[i]` with `i` at or above `BFX_CNT`:
  "a model makes a read of a register in an invalid group a fault" (10_state R39, R48). Safe: the machine stops. -/
  | invalidOutput (n : Nat)
  /-- Raised by a host access to a `BUF` offset at or above `BUF_MAX`, which does not exist (10_state R27, R49). Safe. -/
  | outsideBuffer (a : Nat)
deriving DecidableEq, Repr

/-- Why the machine gives a step no meaning. Each reason but the first is a use the spec says a model refuses. -/
inductive Refusal where
  /-- Raised by an arm of `exec` for an instruction without a meaning; no arm does. Safe. -/
  | notModelled (mnemonic : String)
  /-- Raised by a command that needs register `n`, or a host read of it, while it holds no value: "a model refuses such a
  launch" (70_reset_and_hazards R265, R260). Safe: the machine stops where the spec gives no result. -/
  | noValueRegister (n : Nat)
  /-- Raised by a command that needs the byte at offset `a` of `BUF`, or a host read of it, which nothing has written
  (70_reset_and_hazards R265, R260). Safe. -/
  | noValueByte (a : Nat)
  /-- Raised by a host access to a register number that is not implemented: "a host access to it is a host error, model
  refuses" (10_state R49). Safe. -/
  | unimplementedRegister (n : Nat)
  /-- Raised by a host read of `CMD`, which is write only and returns no value (10_state R25, R22). Safe. -/
  | commandRead
  /-- Raised by a host write of `BUF_LEN` above `BUF_MAX`: "a host error the model refuses" (10_state R26). Safe. -/
  | bufLenAboveMax
  /-- Raised by a host write to register `n` of a value that does not fit its width (70_reset_and_hazards R275). Safe. -/
  | valueTooWide (n : Nat)
  /-- Raised by a host write that would leave `T0_VALID = 1` beside a written `T0_US` outside its legal range
  (70_reset_and_hazards R275, 10_state R31). Safe. -/
  | t0OutOfRange
  /-- Raised by a host write of 1 to `MISSION_KNOWN` while `MISSION_ID` holds no value (70_reset_and_hazards R275). Safe. -/
  | missionIdMissing
deriving DecidableEq, Repr

/-- A host-written register that the spec gives no reset value: the bits it holds, and whether the host has written it
since reset. Where `held` is false it "holds no value" (70_reset_and_hazards R260, R266). -/
structure InputReg (w : Nat) where
  value : BitVec w
  held : Bool
deriving DecidableEq, Repr

/-- Such a register after reset. DESIGN CHOICE (log 3): the bits are 0; no command result rests on them. -/
def InputReg.unwritten (w : Nat) : InputReg w where
  value := 0
  held := false

/-- A register after a write of `v`. -/
def InputReg.holding {w : Nat} (v : BitVec w) : InputReg w where
  value := v
  held := true

/-- The input registers (10_state R26 to R34); access `HW`. -/
structure Inputs where
  /-- 0x01 `BUF_LEN`. -/
  bufLen : BitVec 32
  /-- 0x02 `MISSION_ID`, signed. -/
  missionId : InputReg 32
  /-- 0x03 `MISSION_KNOWN`. -/
  missionKnown : BitVec 1
  /-- 0x04 `T0_VALID`. -/
  t0Valid : BitVec 1
  /-- 0x05 `T0_US`, signed. -/
  t0Us : InputReg 64
  /-- 0x06 `SCET_IN_COARSE`. -/
  scetInCoarse : InputReg 31
  /-- 0x07 `SCET_IN_FINE`. -/
  scetInFine : InputReg 16
  /-- 0x08 `WL_CNT`; the widest it can be is 5 bits, since `WL_MAX <= 16`. -/
  wlCnt : BitVec 5
  /-- 0x10 + i `WL[i]`; only entries below `WL_MAX` exist. -/
  wl : Vector (InputReg 8) 16
deriving DecidableEq, Repr

/-- The status registers (10_state R33, R35 to R39); access `RO`. -/
structure StatusRegs where
  /-- 0x20 `STATUS`: bit 0 `DONE`, bit 1 `ERR`, bit 2 `W_UNKMIS`. -/
  status : BitVec 3
  /-- 0x21 `ERR_CODE`. -/
  errCode : BitVec 3
  /-- 0x22 `ERR_UNIT`. -/
  errUnit : BitVec 3
  /-- 0x23 `ERR_REQ_BITS`. -/
  errReqBits : BitVec 32
  /-- 0x24 `ERR_AVAIL_BITS`. -/
  errAvailBits : BitVec 32
  /-- 0x25 `ERR_CAUSE`. -/
  errCause : BitVec 2
  /-- 0x26 `VALID`, one bit per output group. -/
  valid : BitVec 9
deriving DecidableEq, Repr

/-- PacketIdentifier group, 0x30 to 0x35 (10_state R42). -/
structure PidGroup where
  version : BitVec 3
  ptype : BitVec 1
  shf : BitVec 1
  apid : BitVec 11
  processId : BitVec 7
  pktCat : BitVec 4
deriving DecidableEq, Repr

/-- SequenceControl group, 0x36 and 0x37 (10_state R43). -/
structure PscGroup where
  segFlag : BitVec 2
  seqCount : BitVec 14
deriving DecidableEq, Repr

/-- Length group, 0x38 and 0x39 (10_state R44). -/
structure LenGroup where
  rawLen : BitVec 16
  pktLen : BitVec 17
deriving DecidableEq, Repr

/-- DataFieldHeader group, 0x40 to 0x47 (10_state R45). -/
structure DfhGroup where
  pusVer : BitVec 3
  svcType : BitVec 8
  svcSubtype : BitVec 8
  destId : BitVec 8
  syncBit : BitVec 1
  timeSync : BitVec 1
  coarse : BitVec 31
  fine : BitVec 16
deriving DecidableEq, Repr

/-- UTC group, 0x48 and 0x49 (10_state R46); `utcVal` is signed. -/
structure UtcGroup where
  utcKind : BitVec 2
  utcVal : BitVec 64
deriving DecidableEq, Repr

/-- Payload group, 0x4B and 0x4C (10_state R47). -/
structure PayGroup where
  payloadOff : BitVec 32
  payloadLen : BitVec 32
deriving DecidableEq, Repr

/-- The extraction result file, 0x50 and 0x60 + i (10_state R48). A result is a `FIELD_MAX`-bit unsigned number, held as a
Nat because `FIELD_MAX` is a parameter (log 15). -/
structure BfxGroup where
  bfxCnt : BitVec 5
  bfx : Vector Nat 16
deriving DecidableEq, Repr

/-- The ephemeris port as the model sees it (42_time_resolver R160, R161; logs 8 and 9): the answers the service is to
give, in order, and the requests made so far, newest first. -/
structure EphPort where
  answers : List EphAnswer
  requests : List EphRequest
deriving DecidableEq, Repr

/-- The written bytes of `BUF`, by rising offset; an offset that is not listed holds no value (10_state R27). -/
abbrev Memory := List Host.Cell

/-- One block (10_state R20). The last four fields are the model's own: the parameters, which no step changes (log 7), the
ephemeris port (logs 8 and 9), the host's transactions still to come (log 1), and what the last host read returned (log 10). -/
structure State where
  inp : Inputs
  buf : Memory
  stat : StatusRegs
  pid : PidGroup
  psc : PscGroup
  len : LenGroup
  dfh : DfhGroup
  utc : UtcGroup
  /-- 0x4A `PKT_MISSION_ID`, signed (10_state R47). -/
  pktMissionId : BitVec 32
  pay : PayGroup
  res : BfxGroup
  cfg : Config
  eph : EphPort
  host : List HostAction
  rdata : Option Int
deriving DecidableEq, Repr

/-- The input registers after reset (70_reset_and_hazards R260). -/
def Inputs.reset : Inputs where
  bufLen := 0
  missionId := .unwritten 32
  missionKnown := 0
  t0Valid := 0
  t0Us := .unwritten 64
  scetInCoarse := .unwritten 31
  scetInFine := .unwritten 16
  wlCnt := 0
  wl := Vector.replicate 16 (.unwritten 8)

/-- The status registers after reset, all 0 (70_reset_and_hazards R260). -/
def StatusRegs.reset : StatusRegs where
  status := 0
  errCode := 0
  errUnit := 0
  errReqBits := 0
  errAvailBits := 0
  errCause := 0
  valid := 0

/-- A block of configuration `c` right after reset (70_reset_and_hazards R260), with the host moves and the ephemeris port
given. The output registers hold no value, as their valid bits say; DESIGN CHOICE (log 3): their bits are 0. -/
def State.resetWith (c : Config) (eph : EphPort) (host : List HostAction) : State where
  inp := .reset
  buf := []
  stat := .reset
  pid := ⟨0, 0, 0, 0, 0, 0⟩
  psc := ⟨0, 0⟩
  len := ⟨0, 0⟩
  dfh := ⟨0, 0, 0, 0, 0, 0, 0, 0⟩
  utc := ⟨0, 0⟩
  pktMissionId := 0
  pay := ⟨0, 0⟩
  res := ⟨0, Vector.replicate 16 0⟩
  cfg := c
  eph := eph
  host := host
  rdata := none

/-- The machine right after reset, with the default parameters, no host move pending and no ephemeris answer listed. -/
def State.reset : State := State.resetWith Config.defaults ⟨[], []⟩ []

end Sys2Proof.Machine
end

