-- ==== Sys2Proof/Machine/Flags.lean ====
section
/-! DEFINITION. The codes of the status registers and the operations on the bits of STATUS and VALID (10_state R33 to R39). -/

namespace Sys2Proof.Machine

/-- The error kinds of 10_state R35. -/
inductive ErrKind where
  | bufferTooShort
  | timeConversion
  | consistency
  | illegalCommand
  | badWidthList
deriving DecidableEq, Repr

/-- The values of `ERR_CODE` (10_state R35). -/
def ErrKind.code : ErrKind → BitVec 3
  | .bufferTooShort => 1
  | .timeConversion => 2
  | .consistency => 3
  | .illegalCommand => 4
  | .badWidthList => 5

/-- The decoders that detect errors (10_state R36). -/
inductive ErrUnit where
  | none
  | bfx
  | pid
  | psc
  | sph
  | dfh
  | pkt
  | tres
deriving DecidableEq, Repr

/-- The values of `ERR_UNIT` (10_state R36). -/
def ErrUnit.code : ErrUnit → BitVec 3
  | .none => 0
  | .bfx => 1
  | .pid => 2
  | .psc => 3
  | .sph => 4
  | .dfh => 5
  | .pkt => 6
  | .tres => 7

/-- The sub-causes of `TIME_CONVERSION_ERROR`, and none (10_state R38). -/
inductive ErrCause where
  | none
  | missionUnrecognized
  | serviceFailed
deriving DecidableEq, Repr

/-- The values of `ERR_CAUSE` (10_state R38). -/
def ErrCause.code : ErrCause → BitVec 2
  | .none => 0
  | .missionUnrecognized => 1
  | .serviceFailed => 2

/-- The kinds of a UTC value (10_state R46). -/
inductive UtcKind where
  | sentinel
  | linear
  | ephemeris
deriving DecidableEq, Repr

/-- The values of `UTC_KIND` (10_state R46). -/
def UtcKind.code : UtcKind → BitVec 2
  | .sentinel => 0
  | .linear => 1
  | .ephemeris => 2

/-- The output groups, one per bit of `VALID` (10_state R39). -/
inductive Group where
  | pid
  | psc
  | len
  | dfh
  | utc
  | pay
  | mid
  | pkt
  | bfx
deriving DecidableEq, Repr

/-- The bit of `VALID` that covers a group (10_state R39). -/
def Group.bit : Group → Nat
  | .pid => 0
  | .psc => 1
  | .len => 2
  | .dfh => 3
  | .utc => 4
  | .pay => 5
  | .mid => 6
  | .pkt => 7
  | .bfx => 8

/-- `v` with bit `k` made `b`. -/
def writeBit {w : Nat} (v : BitVec w) (k : Nat) (b : BitVec 1) : BitVec w :=
  (v &&& ~~~(1#w <<< k)) ||| (b.setWidth w <<< k)

/-- Whether a group's valid bit is 1: "1 means every register of the group holds the value the last command decoded". -/
def State.isValid (s : State) (g : Group) : Bool := s.stat.valid.getLsbD g.bit

/-- `reg[VALID].V_g <- b`. -/
def State.setValid (g : Group) (b : BitVec 1) (s : State) : State :=
  { s with stat := { s.stat with valid := writeBit s.stat.valid g.bit b } }

/-- `reg[STATUS].DONE <- 1`. -/
def State.setDone (s : State) : State :=
  { s with stat := { s.stat with status := writeBit s.stat.status 0 1 } }

/-- `reg[STATUS].ERR <- 1`. -/
def State.setErr (s : State) : State :=
  { s with stat := { s.stat with status := writeBit s.stat.status 1 1 } }

/-- `warn UnknownMission`: `STATUS.W_UNKMIS <- 1` and the command goes on (60_exceptions R228). -/
def State.warnUnknownMission (s : State) : State :=
  { s with stat := { s.stat with status := writeBit s.stat.status 2 1 } }

end Sys2Proof.Machine
end

