-- ==== Sys2Proof/Machine/Ops.lean ====
section
/-! DEFINITION. The named operations over the buffer and the registers: reads and writes of BUF (20_memory), the command
prologue and epilogue (10_state R40, R41), taking an error (60_exceptions R232), and the control flow of a command. -/

namespace Sys2Proof.Machine

/-- The byte at offset `a`, or none where nothing has written it (10_state R27). -/
def Memory.read (m : Memory) (a : Nat) : Option Byte :=
  match m with
  | [] => none
  | (b, v) :: rest => if b = a then some v else Memory.read rest a

/-- `MemWrite(a, 1, v)` (00_scope R10): the cells stay in rising order of offset, one per offset. -/
def Memory.write (m : Memory) (a : Nat) (v : Byte) : Memory :=
  match m with
  | [] => [(a, v)]
  | (b, u) :: rest =>
    if a < b then (a, v) :: (b, u) :: rest
    else if a = b then (a, v) :: rest
    else (b, u) :: Memory.write rest a v

/-- The canonical form of memory: offsets strictly rising. A listed cell always differs from an unlisted one, which holds
no value. -/
def Memory.wf : Memory → Bool
  | [] => true
  | [_] => true
  | (a, _) :: (b, v) :: rest => decide (a < b) && Memory.wf ((b, v) :: rest)

/-- The memory that holds `bs` from offset `a` on. -/
def Memory.ofBytesFrom (a : Nat) : List Byte → Memory
  | [] => []
  | b :: bs => (a, b) :: Memory.ofBytesFrom (a + 1) bs

/-- The memory after `LOAD` of `bs` into an empty buffer (30_encoding R102): byte `i` of the list at offset `i`. -/
def Memory.ofBytes (bs : List Byte) : Memory := Memory.ofBytesFrom 0 bs

/-- The first of the offsets `0 .. n-1` that nothing has written. -/
def Memory.firstMissing (m : Memory) : Nat → Option Nat
  | 0 => none
  | n + 1 =>
    match Memory.firstMissing m n with
    | some a => some a
    | none => if (Memory.read m n).isNone then some n else none

/-- `BUF[a]` for a byte the command has checked to hold a value. Where it holds none the result is 0, which no command
uses (log 16): every command calls `needBytes` first. -/
def Memory.byteAt (m : Memory) (a : Nat) : Byte := (Memory.read m a).getD 0

/-- `8 * BUF_LEN`, the bits available to a command (60_exceptions R226). -/
def State.availBits (s : State) : Nat := 8 * s.inp.bufLen.toNat

/-- `begin_cmd()` (10_state R40). -/
def State.beginCmd (s : State) : State := { s with stat := .reset }

/-- `end_cmd()` (10_state R41). -/
def State.endCmd (s : State) : State := s.setDone

/-- `raise E(unit, req, avail, cause)`, taking an error: the record is written, DONE is set, nothing else changes
(60_exceptions R232). There is no return from it: the next command's prologue clears the record (60_exceptions R235). -/
def State.raise (e : ErrKind) (u : ErrUnit) (req avail : Nat) (cause : ErrCause) (s : State) : State :=
  let r := s.setErr
  State.endCmd
    { r with stat := { r.stat with
        errCode := e.code
        errUnit := u.code
        errReqBits := BitVec.ofNat 32 req
        errAvailBits := BitVec.ofNat 32 avail
        errCause := cause.code } }

/-- What one part of a command does: the command goes on in `s`, has ended in `s` by `raise`, or is refused. -/
inductive Flow where
  | go (s : State)
  | ended (s : State)
  | refuse (r : Refusal)
deriving DecidableEq, Repr

/-- The next part of a command, run only if the parts before it let the command go on: "no later line of the command
runs" after a `raise` (00_scope R10). -/
def Flow.andThen (x : Flow) (k : State → Flow) : Flow :=
  match x with
  | .go s => k s
  | .ended s => .ended s
  | .refuse r => .refuse r

/-- The end of a command: `end_cmd()` at its normal end; `raise` has run it already (10_state R41). -/
def Flow.finish (x : Flow) : Host.Outcome State Fault Refusal :=
  match x with
  | .go s => .next s.endCmd
  | .ended s => .next s
  | .refuse r => .refused r

/-- The size check of a command: `BUFFER_TOO_SHORT` when `8 * BUF_LEN < required` (60_exceptions R226). -/
def needBits (u : ErrUnit) (required : Nat) (s : State) : Flow :=
  if s.availBits < required then .ended (s.raise .bufferTooShort u required s.availBits .none) else .go s

/-- The bytes `BUF[0 .. n-1]` must hold a value (70_reset_and_hazards R265). -/
def needBytes (n : Nat) (s : State) : Flow :=
  match Memory.firstMissing s.buf n with
  | some a => .refuse (.noValueByte a)
  | none => .go s

/-- Register number `n` must hold a value (70_reset_and_hazards R265). -/
def needHeld (n : Nat) (held : Bool) (s : State) : Flow :=
  if held then .go s else .refuse (.noValueRegister n)

end Sys2Proof.Machine
end

