-- ==== Sys2Proof/Machine/Control.lean ====
section
/-! DEFINITION. The control commands (45_control). -/

namespace Sys2Proof.Machine

/-- `CLR` (45_control R215). -/
def execClr (s : State) : Host.Outcome State Fault Refusal := (Flow.go s.beginCmd).finish

/-- A reserved command code raises `ILLEGAL_COMMAND`; the code is not recorded (45_control R217). -/
def execReserved (_code : BitVec 8) (s : State) : Host.Outcome State Fault Refusal :=
  (Flow.ended (s.beginCmd.raise .illegalCommand .none 0 0 .none)).finish

end Sys2Proof.Machine
end

