-- ==== Sys2Proof/Machine/Operands.lean ====
section
/-! DEFINITION. The operand forms: the bit-field extraction primitive (40_bitfield_extract), the field assignments of the
header formats PID16, PSC16, SPH48, DFH80 and PKT (30_encoding R81 to R85), and their encoders. -/

namespace Sys2Proof.Machine

/-- `sbit(k)`: stream bit `k` is bit `7 - (k mod 8)` of byte `floor(k / 8)` (00_scope R8, R10). -/
def sbit (m : Memory) (k : Nat) : Nat := ((Memory.byteAt m (k / 8)).toNat >>> (7 - k % 8)) % 2

/-- `getbits(p, w)`: the first bit read is the most significant (40_bitfield_extract R111). -/
def getbits (m : Memory) (p : Nat) : Nat → Nat
  | 0 => 0
  | w + 1 => getbits m p w * 2 + sbit m (p + w)

/-- `fields(p0, ws)`: fields back to back, in list order (40_bitfield_extract R120). -/
def fields (m : Memory) (p : Nat) : List Nat → List Nat
  | [] => []
  | w :: ws => getbits m p w :: fields m (p + w) ws

/-- Field number `i` of `fields(p, ws)`. -/
def fieldAt (m : Memory) (p : Nat) (ws : List Nat) (i : Nat) : Nat := (fields m p ws).getD i 0

/-- The width list of the Packet ID (00_scope R7). -/
def pidWidths : List Nat := [3, 1, 1, 11]

/-- The width list of the Packet Sequence Control (00_scope R7). -/
def pscWidths : List Nat := [2, 14]

/-- The width list of the Data Field Header; the first and third fields are spares (00_scope R7, 30_encoding R84). -/
def dfhWidths : List Nat := [1, 3, 4, 8, 8, 8, 1, 31, 16]

/-- The Packet ID at stream bit `p` (41_primary_header R130, R133). -/
def pidFields (m : Memory) (p : Nat) : PidGroup :=
  let a := BitVec.ofNat 11 (fieldAt m p pidWidths 3)
  { version := BitVec.ofNat 3 (fieldAt m p pidWidths 0)
    ptype := BitVec.ofNat 1 (fieldAt m p pidWidths 1)
    shf := BitVec.ofNat 1 (fieldAt m p pidWidths 2)
    apid := a
    processId := a.extractLsb' 4 7
    pktCat := a.extractLsb' 0 4 }

/-- The Packet Sequence Control word at stream bit `p` (41_primary_header R130). -/
def pscFields (m : Memory) (p : Nat) : PscGroup where
  segFlag := BitVec.ofNat 2 (fieldAt m p pscWidths 0)
  seqCount := BitVec.ofNat 14 (fieldAt m p pscWidths 1)

/-- The length field at stream bit `p`, and one more in 17 bits (41_primary_header R139, R140). -/
def lenFields (m : Memory) (p : Nat) : LenGroup :=
  let raw := BitVec.ofNat 16 (getbits m p 16)
  { rawLen := raw, pktLen := raw.setWidth 17 + 1 }

/-- The Data Field Header at stream bit `p` (43_data_field_header R182). -/
def dfhFields (m : Memory) (p : Nat) : DfhGroup :=
  let sy := BitVec.ofNat 1 (fieldAt m p dfhWidths 6)
  { pusVer := BitVec.ofNat 3 (fieldAt m p dfhWidths 1)
    svcType := BitVec.ofNat 8 (fieldAt m p dfhWidths 3)
    svcSubtype := BitVec.ofNat 8 (fieldAt m p dfhWidths 4)
    destId := BitVec.ofNat 8 (fieldAt m p dfhWidths 5)
    syncBit := sy
    timeSync := 1 - sy
    coarse := BitVec.ofNat 31 (fieldAt m p dfhWidths 7)
    fine := BitVec.ofNat 16 (fieldAt m p dfhWidths 8) }

/-- `decode_pid(p)` (41_primary_header R130). -/
def State.decodePid (p : Nat) (s : State) : State :=
  State.setValid .pid 1 { s with pid := pidFields s.buf p }

/-- `decode_psc(p)` (41_primary_header R130). -/
def State.decodePsc (p : Nat) (s : State) : State :=
  State.setValid .psc 1 { s with psc := pscFields s.buf p }

/-- The length part of `decode_sph(p)` (41_primary_header R139). -/
def State.decodeLen (p : Nat) (s : State) : State :=
  State.setValid .len 1 { s with len := lenFields s.buf p }

/-- `decode_sph(p)` (41_primary_header R139). -/
def State.decodeSph (p : Nat) (s : State) : State :=
  ((s.decodePid p).decodePsc (p + 16)).decodeLen (p + 32)

/-- `decode_dfh_fields(p)` (43_data_field_header R182). -/
def State.decodeDfhFields (p : Nat) (s : State) : State :=
  State.setValid .dfh 1 { s with dfh := dfhFields s.buf p }

/-- A word as bytes, most significant first (20_memory R64). -/
def bytesOf (n : Nat) (v : BitVec (8 * n)) : List Byte :=
  (List.range n).map fun i => v.extractLsb' (8 * (n - 1 - i)) 8

/-- Format `PID16`, pattern `vvvtsaaa aaaaaaaa` (30_encoding R81). -/
def encodePid16 (version : BitVec 3) (ptype shf : BitVec 1) (apid : BitVec 11) : BitVec 16 :=
  version ++ ptype ++ shf ++ apid

/-- Format `PSC16`, pattern `ggcccccc cccccccc` (30_encoding R82). -/
def encodePsc16 (segFlag : BitVec 2) (seqCount : BitVec 14) : BitVec 16 := segFlag ++ seqCount

/-- Format `SPH48`: Packet ID, Sequence Control, raw length (30_encoding R83). -/
def encodeSph48 (pid psc rawLen : BitVec 16) : BitVec 48 := pid ++ psc ++ rawLen

/-- Format `DFH80`, pattern `xpppxxxx tttttttt uuuuuuuu dddddddd yccccccc cccccccc cccccccc cccccccc ffffffff ffffffff`
(30_encoding R84). -/
def encodeDfh80 (spare0 : BitVec 1) (pusVer : BitVec 3) (spare1 : BitVec 4) (svcType svcSubtype destId : BitVec 8)
    (sync : BitVec 1) (coarse : BitVec 31) (fine : BitVec 16) : BitVec 80 :=
  spare0 ++ pusVer ++ spare1 ++ svcType ++ svcSubtype ++ destId ++ sync ++ coarse ++ fine

/-- Format `PKT`: an `SPH48`, a `DFH80` and the payload bytes (30_encoding R85). -/
def encodePkt (sph : BitVec 48) (dfh : BitVec 80) (payload : List Byte) : List Byte :=
  bytesOf 6 sph ++ bytesOf 10 dfh ++ payload

end Sys2Proof.Machine
end

