-- ==== Sys2Proof/Machine/TimeResolver.lean ====
section
/-! DEFINITION. The time resolver: elapsed time, the linear and the ephemeris strategy, the ephemeris port, the time policy
of the Data Field Header, and command TRES (42_time_resolver, 43_data_field_header R183). -/

namespace Sys2Proof.Machine

/-- `rdiv(n, d)` (42_time_resolver R156). -/
def rdiv (rounding : UsecRounding) (n d : Nat) : Nat :=
  let q := n / d
  let r := n % d
  match rounding with
  | .halfEven => if d < 2 * r ∨ (2 * r = d ∧ q % 2 = 1) then q + 1 else q
  | .truncate => q

/-- `elapsed_us(c, f)` (42_time_resolver R156). -/
def elapsedUs (rounding : UsecRounding) (c : BitVec 31) (f : BitVec 16) : Nat :=
  c.toNat * 1000000 + rdiv rounding (f.toNat * 15625) 1024

/-- A number fits 64 signed bits. -/
abbrev fitsSigned64 (v : Int) : Prop := -(2 ^ 63) ≤ v ∧ v < 2 ^ 63

/-- `t0 + elapsed` (42_time_resolver R157). Where the sum does not fit the register, which needs a `T0_US` outside its
legal range (R158), the spec states no result and the value is free (log 11). -/
def linearUtc (rounding : UsecRounding) (t0 : BitVec 64) (c : BitVec 31) (f : BitVec 16) : BitVec 64 :=
  let us := elapsedUs rounding c f
  let sum : Int := t0.toInt + us
  if fitsSigned64 sum then BitVec.ofInt 64 sum else Config.utcOverflow t0 us

/-- `reg[UTC_KIND] <- k`, `reg[UTC_VAL] <- v`, `reg[VALID].V_UTC <- 1` (42_time_resolver R151, 43_data_field_header R183). -/
def State.putUtc (k : UtcKind) (v : BitVec 64) (s : State) : State :=
  State.setValid .utc 1 { s with utc := { utcKind := k.code, utcVal := v } }

/-- The request `eph(m, c, f)` puts on the port; the digits are the constant 5 (42_time_resolver R160). -/
def ephRequest (mid : BitVec 32) (c : BitVec 31) (f : BitVec 16) : EphRequest where
  mission := mid
  coarse := c
  fine := f
  digits := 5

/-- The service's answer to `r`: the next listed one, else the free value of this request (42_time_resolver R161; log 8). -/
def State.ephAnswer (s : State) (r : EphRequest) : EphAnswer :=
  match s.eph.answers with
  | a :: _ => a
  | [] => Config.ephAnswer s.eph.requests.length r

/-- The transaction on the port: the answer is used up and the request recorded (logs 8 and 9). -/
def State.ephTransact (r : EphRequest) (s : State) : State :=
  { s with eph := { answers := s.eph.answers.tail, requests := r :: s.eph.requests } }

/-- The ephemeris strategy of `resolve` (42_time_resolver R152, R154, R162). -/
def resolveEphemeris (c : InputReg 31) (f : InputReg 16) (mid : InputReg 32) (known : BitVec 1) (u : ErrUnit)
    (s : State) : Flow :=
  if known = 0 then .ended (s.raise .timeConversion u 0 0 .missionUnrecognized)
  else
    (needHeld 0x02 mid.held s).andThen fun s =>
      (needHeld 0x06 c.held s).andThen fun s =>
        (needHeld 0x07 f.held s).andThen fun s =>
          let r := ephRequest mid.value c.value f.value
          let a := s.ephAnswer r
          let s := s.ephTransact r
          if a.ok = 0 then .ended (s.raise .timeConversion u 0 0 .serviceFailed)
          else .go (s.putUtc .ephemeris a.cal)

/-- The linear-offset strategy of `resolve` (42_time_resolver R152, R153). -/
def resolveLinear (c : InputReg 31) (f : InputReg 16) (t0 : InputReg 64) (s : State) : Flow :=
  (needHeld 0x05 t0.held s).andThen fun s =>
    (needHeld 0x06 c.held s).andThen fun s =>
      (needHeld 0x07 f.held s).andThen fun s =>
        .go (s.putUtc .linear (linearUtc s.cfg.usecRounding t0.value c.value f.value))

/-- `resolve` with the writes its callers make of its result (42_time_resolver R152): the strategy is chosen by `t0v`
alone. An argument is needed only on the path that uses it (70_reset_and_hazards R266). -/
def resolve (c : InputReg 31) (f : InputReg 16) (mid : InputReg 32) (known t0v : BitVec 1) (t0 : InputReg 64)
    (u : ErrUnit) (s : State) : Flow :=
  if t0v = 1 then resolveLinear c f t0 s else resolveEphemeris c f mid known u s

/-- `dfh_time` (43_data_field_header R183) on the fields that `decode_dfh_fields` has just written: the sentinel where the
synchronization bit is 1, else `resolve` with unit `U_DFH`. -/
def dfhTime (t0v : BitVec 1) (t0 : InputReg 64) (s : State) : Flow :=
  if s.dfh.syncBit = 1 then .go (s.putUtc .sentinel 0)
  else
    resolve (.holding s.dfh.coarse) (.holding s.dfh.fine) s.inp.missionId s.inp.missionKnown t0v t0 .dfh s

/-- `TRES` (42_time_resolver R151). -/
def execTres (s : State) : Host.Outcome State Fault Refusal :=
  let b := s.beginCmd
  Flow.finish <|
    resolve b.inp.scetInCoarse b.inp.scetInFine b.inp.missionId b.inp.missionKnown b.inp.t0Valid b.inp.t0Us .tres b

end Sys2Proof.Machine
end

