-- ==== Sys2Proof/Machine/DataFieldHeader.lean ====
section
/-! DEFINITION. The Data Field Header command DDFH (43_data_field_header). -/

namespace Sys2Proof.Machine

/-- `DDFH` (43_data_field_header R181). -/
def execDdfh (s : State) : Host.Outcome State Fault Refusal :=
  Flow.finish <|
    (needBits .dfh 80 s.beginCmd).andThen fun s =>
      (needBytes 10 s).andThen fun s =>
        dfhTime s.inp.t0Valid s.inp.t0Us (s.decodeDfhFields 0)

end Sys2Proof.Machine
end

