-- ==== Sys2Proof/Machine/Extract.lean ====
section
/-! DEFINITION. Command BFX, bit-field extraction with a width list of the host's (40_bitfield_extract R112 to R118). -/

namespace Sys2Proof.Machine

/-- What reading the width list in index order meets first. -/
inductive WidthScan where
  /-- Every entry is a legal width. -/
  | good (ws : List Nat)
  /-- Entry `i` is 0 or above `FIELD_MAX` (40_bitfield_extract R114). -/
  | bad (i : Nat)
  /-- Entry `i` holds no value (70_reset_and_hazards R265). -/
  | noValue (i : Nat)
deriving DecidableEq, Repr

/-- The loop of R112 over the entries of the width list, the first of them being entry `i`: it reads an entry only when
all before it are legal. -/
def scanWidths (fieldMax : Nat) (i : Nat) : List (InputReg 8) → WidthScan
  | [] => .good []
  | r :: rs =>
    if r.held = false then .noValue i
    else if r.value = 0 ∨ fieldMax < r.value.toNat then .bad i
    else
      match scanWidths fieldMax (i + 1) rs with
      | .good ws => .good (r.value.toNat :: ws)
      | .bad j => .bad j
      | .noValue j => .noValue j

/-- `WL[0 .. WL_CNT-1]` (10_state R34). -/
def State.widthEntries (s : State) : List (InputReg 8) := s.inp.wl.toList.take s.inp.wlCnt.toNat

/-- `for i: reg[BFX[i]] <- v[i]`, from entry `i` on (40_bitfield_extract R112). -/
def writeResults (file : Vector Nat 16) (i : Nat) : List Nat → Vector Nat 16
  | [] => file
  | v :: vs => writeResults (file.setIfInBounds i v) (i + 1) vs

/-- The last lines of R112: the results, `BFX_CNT` and `V_BFX`. -/
def State.putResults (ws : List Nat) (s : State) : State :=
  State.setValid .bfx 1
    { s with res := { bfxCnt := s.inp.wlCnt, bfx := writeResults s.res.bfx 0 (fields s.buf 0 ws) } }

/-- The part of R112 after the width list is found good: the size check, the extraction, the results. -/
def extractWidths (ws : List Nat) (s : State) : Flow :=
  (needBits .bfx ws.sum s).andThen fun s =>
    (needBytes ((ws.sum + 7) / 8) s).andThen fun s => .go (s.putResults ws)

/-- `BFX` (40_bitfield_extract R112). -/
def execBfx (s : State) : Host.Outcome State Fault Refusal :=
  let b := s.beginCmd
  let n := b.inp.wlCnt.toNat
  Flow.finish <|
    if b.cfg.wlMax < n then .ended (b.raise .badWidthList .bfx n 0 .none)
    else
      match scanWidths b.cfg.fieldMax 0 b.widthEntries with
      | .noValue i => .refuse (.noValueRegister (0x10 + i))
      | .bad i => .ended (b.raise .badWidthList .bfx i 0 .none)
      | .good ws => extractWidths ws b

end Sys2Proof.Machine
end

