-- ==== Sys2Proof/Machine/Packet.lean ====
section
/-! DEFINITION. The whole-packet command DPKT (44_packet_decoder). -/

namespace Sys2Proof.Machine

/-- The warning part of step (a): `W_UNKMIS` when the mission is unknown (44_packet_decoder R196, R198). -/
def State.missionWarning (s : State) : State := if s.inp.missionKnown = 0 then s.warnUnknownMission else s

/-- `t0v` of step (a): 1 when the mission is unknown, else the host's `T0_VALID` (44_packet_decoder R196). -/
def State.packetT0Valid (s : State) : BitVec 1 := if s.inp.missionKnown = 0 then 1 else s.inp.t0Valid

/-- `t0` of step (a): the sentinel epoch when the mission is unknown, else the host's `T0_US` (44_packet_decoder R196);
the host's registers are not touched (R199). -/
def State.packetT0 (s : State) : InputReg 64 := if s.inp.missionKnown = 0 then .holding 0 else s.inp.t0Us

/-- The payload bounds (44_packet_decoder R196, R204). -/
def State.putPayload (s : State) : State :=
  State.setValid .pay 1 { s with pay := { payloadOff := 16, payloadLen := s.inp.bufLen - 16 } }

/-- The mission identifier of the packet: copied, and valid only when the mission is known (44_packet_decoder R201). -/
def State.putMission (s : State) : State :=
  State.setValid .mid s.inp.missionKnown { s with pktMissionId := s.inp.missionId.value }

/-- The optional length check (44_packet_decoder R203). -/
def checkPacketLength (s : State) : Flow :=
  if s.cfg.checkLength = true ∧ s.inp.bufLen.toNat - 6 ≠ s.len.pktLen.toNat then
    .ended (s.raise .consistency .pkt (8 * s.len.pktLen.toNat) (8 * (s.inp.bufLen.toNat - 6)) .none)
  else .go s

/-- Steps (b) and (c) of DPKT up to the time policy: both headers, the payload bounds, the mission identifier. -/
def State.decodePacket (s : State) : State :=
  (((s.decodeSph 0).decodeDfhFields 48).putPayload).putMission

/-- `DPKT` (44_packet_decoder R196). -/
def execDpkt (s : State) : Host.Outcome State Fault Refusal :=
  Flow.finish <|
    (needBits .pkt 128 s.beginCmd.missionWarning).andThen fun s =>
      (needBytes 16 s).andThen fun s =>
        (needHeld 0x02 (s.inp.missionKnown = 0 || s.inp.missionId.held) s).andThen fun s =>
          (dfhTime s.packetT0Valid s.packetT0 s.decodePacket).andThen fun s =>
            (checkPacketLength s).andThen fun s => .go (s.setValid .pkt 1)

end Sys2Proof.Machine
end

