-- ==== Sys2Proof/Machine/PrimaryHeader.lean ====
section
/-! DEFINITION. The primary header commands DPID, DPSC and DSPH (41_primary_header). -/

namespace Sys2Proof.Machine

/-- `DPID` (41_primary_header R131). -/
def execDpid (s : State) : Host.Outcome State Fault Refusal :=
  Flow.finish <|
    (needBits .pid 16 s.beginCmd).andThen fun s =>
      (needBytes 2 s).andThen fun s => .go (s.decodePid 0)

/-- `DPSC` (41_primary_header R136). -/
def execDpsc (s : State) : Host.Outcome State Fault Refusal :=
  Flow.finish <|
    (needBits .psc 16 s.beginCmd).andThen fun s =>
      (needBytes 2 s).andThen fun s => .go (s.decodePsc 0)

/-- `DSPH` (41_primary_header R139). -/
def execDsph (s : State) : Host.Outcome State Fault Refusal :=
  Flow.finish <|
    (needBits .sph 48 s.beginCmd).andThen fun s =>
      (needBytes 6 s).andThen fun s => .go (s.decodeSph 0)

end Sys2Proof.Machine
end

