-- ==== Sys2Proof/Machine/Dispatch.lean ====
section
/-! DEFINITION. The commands of 30_encoding R95, each sent to its meaning. -/

namespace Sys2Proof.Machine

def exec (i : Instr) (s : State) : Host.Outcome State Fault Refusal :=
  match i with
  | .clr => Sys2Proof.Machine.execClr s
  | .bfx => Sys2Proof.Machine.execBfx s
  | .dpid => Sys2Proof.Machine.execDpid s
  | .dpsc => Sys2Proof.Machine.execDpsc s
  | .dsph => Sys2Proof.Machine.execDsph s
  | .tres => Sys2Proof.Machine.execTres s
  | .ddfh => Sys2Proof.Machine.execDdfh s
  | .dpkt => Sys2Proof.Machine.execDpkt s
  | .reserved code => Sys2Proof.Machine.execReserved code s

end Sys2Proof.Machine
end

