-- ==== Sys2Proof/Machine/HostPort.lean ====
section
/-! DEFINITION. The host's side of the block: the register map and its access kinds (10_state R22, R49 and section 10), host
reads and writes of registers and of BUF, reset, and the start of a command by a write to CMD (10_state R25). -/

namespace Sys2Proof.Machine

/-- The registers of 10_state section 10, without their numbers. -/
inductive Reg where
  | cmd
  | bufLen
  | missionId
  | missionKnown
  | t0Valid
  | t0Us
  | scetInCoarse
  | scetInFine
  | wlCnt
  | wl (i : Nat)
  | status
  | errCode
  | errUnit
  | errReqBits
  | errAvailBits
  | errCause
  | valid
  | version
  | ptype
  | shf
  | apid
  | processId
  | pktCat
  | segFlag
  | seqCount
  | rawLen
  | pktLen
  | pusVer
  | svcType
  | svcSubtype
  | destId
  | syncBit
  | timeSync
  | coarse
  | fine
  | utcKind
  | utcVal
  | pktMissionId
  | payloadOff
  | payloadLen
  | bfxCnt
  | bfx (i : Nat)
deriving DecidableEq, Repr

/-- The register with number `n`, or none where the number is unimplemented (10_state R49 and section 10). -/
def regOfNumber (c : Config) (n : Nat) : Option Reg :=
  match n with
  | 0x00 => some .cmd
  | 0x01 => some .bufLen
  | 0x02 => some .missionId
  | 0x03 => some .missionKnown
  | 0x04 => some .t0Valid
  | 0x05 => some .t0Us
  | 0x06 => some .scetInCoarse
  | 0x07 => some .scetInFine
  | 0x08 => some .wlCnt
  | 0x20 => some .status
  | 0x21 => some .errCode
  | 0x22 => some .errUnit
  | 0x23 => some .errReqBits
  | 0x24 => some .errAvailBits
  | 0x25 => some .errCause
  | 0x26 => some .valid
  | 0x30 => some .version
  | 0x31 => some .ptype
  | 0x32 => some .shf
  | 0x33 => some .apid
  | 0x34 => some .processId
  | 0x35 => some .pktCat
  | 0x36 => some .segFlag
  | 0x37 => some .seqCount
  | 0x38 => some .rawLen
  | 0x39 => some .pktLen
  | 0x40 => some .pusVer
  | 0x41 => some .svcType
  | 0x42 => some .svcSubtype
  | 0x43 => some .destId
  | 0x44 => some .syncBit
  | 0x45 => some .timeSync
  | 0x46 => some .coarse
  | 0x47 => some .fine
  | 0x48 => some .utcKind
  | 0x49 => some .utcVal
  | 0x4A => some .pktMissionId
  | 0x4B => some .payloadOff
  | 0x4C => some .payloadLen
  | 0x50 => some .bfxCnt
  | n =>
    if 0x10 ≤ n ∧ n < 0x10 + c.wlMax then some (.wl (n - 0x10))
    else if 0x60 ≤ n ∧ n < 0x60 + c.wlMax then some (.bfx (n - 0x60))
    else none

/-- A value of an unsigned register of `w` bits. -/
abbrev fitsUnsigned (w : Nat) (v : Int) : Prop := 0 ≤ v ∧ v < 2 ^ w

/-- A value of a signed register of `w` bits. -/
abbrev fitsSigned (w : Nat) (v : Int) : Prop := -(2 ^ (w - 1)) ≤ v ∧ v < 2 ^ (w - 1)

/-- The width of `WL_CNT` and `BFX_CNT`: wide enough for `0 .. WL_MAX` (10_state R34). -/
def wlCntWidth (c : Config) : Nat := Nat.log2 c.wlMax + 1

/-- The legal range of `T0_US`, years 0001 to 9999 (10_state R31). -/
abbrev t0InRange (v : Int) : Prop := -62135596800000000 ≤ v ∧ v ≤ 253402300799999999

/-- A read of a register of group `g`: the value when the group is valid, else a fault (10_state R39). -/
def State.readGroup (s : State) (n : Nat) (g : Group) (v : Int) : Host.Outcome Int Fault Refusal :=
  if s.isValid g then .next v else .fault (.invalidOutput n)

/-- A read of a host-written register: what the host wrote, or a refusal where it holds no value (10_state R22,
70_reset_and_hazards R260). -/
def readInput (n : Nat) (held : Bool) (v : Int) : Host.Outcome Int Fault Refusal :=
  if held then .next v else .refused (.noValueRegister n)

/-- `WL[i]`. -/
def State.wlEntry (s : State) (i : Nat) : InputReg 8 := s.inp.wl.toList.getD i (.unwritten 8)

/-- What a host read of register `r`, whose number is `n`, returns (10_state R22 to R48). -/
def State.readReg (s : State) (n : Nat) (r : Reg) : Host.Outcome Int Fault Refusal :=
  match r with
  | .cmd => .refused .commandRead
  | .bufLen => .next s.inp.bufLen.toNat
  | .missionId => readInput n s.inp.missionId.held s.inp.missionId.value.toInt
  | .missionKnown => .next s.inp.missionKnown.toNat
  | .t0Valid => .next s.inp.t0Valid.toNat
  | .t0Us => readInput n s.inp.t0Us.held s.inp.t0Us.value.toInt
  | .scetInCoarse => readInput n s.inp.scetInCoarse.held s.inp.scetInCoarse.value.toNat
  | .scetInFine => readInput n s.inp.scetInFine.held s.inp.scetInFine.value.toNat
  | .wlCnt => .next s.inp.wlCnt.toNat
  | .wl i => readInput n (s.wlEntry i).held (s.wlEntry i).value.toNat
  | .status => .next s.stat.status.toNat
  | .errCode => .next s.stat.errCode.toNat
  | .errUnit => .next s.stat.errUnit.toNat
  | .errReqBits => .next s.stat.errReqBits.toNat
  | .errAvailBits => .next s.stat.errAvailBits.toNat
  | .errCause => .next s.stat.errCause.toNat
  | .valid => .next s.stat.valid.toNat
  | .version => s.readGroup n .pid s.pid.version.toNat
  | .ptype => s.readGroup n .pid s.pid.ptype.toNat
  | .shf => s.readGroup n .pid s.pid.shf.toNat
  | .apid => s.readGroup n .pid s.pid.apid.toNat
  | .processId => s.readGroup n .pid s.pid.processId.toNat
  | .pktCat => s.readGroup n .pid s.pid.pktCat.toNat
  | .segFlag => s.readGroup n .psc s.psc.segFlag.toNat
  | .seqCount => s.readGroup n .psc s.psc.seqCount.toNat
  | .rawLen => s.readGroup n .len s.len.rawLen.toNat
  | .pktLen => s.readGroup n .len s.len.pktLen.toNat
  | .pusVer => s.readGroup n .dfh s.dfh.pusVer.toNat
  | .svcType => s.readGroup n .dfh s.dfh.svcType.toNat
  | .svcSubtype => s.readGroup n .dfh s.dfh.svcSubtype.toNat
  | .destId => s.readGroup n .dfh s.dfh.destId.toNat
  | .syncBit => s.readGroup n .dfh s.dfh.syncBit.toNat
  | .timeSync => s.readGroup n .dfh s.dfh.timeSync.toNat
  | .coarse => s.readGroup n .dfh s.dfh.coarse.toNat
  | .fine => s.readGroup n .dfh s.dfh.fine.toNat
  | .utcKind => s.readGroup n .utc s.utc.utcKind.toNat
  | .utcVal => s.readGroup n .utc s.utc.utcVal.toInt
  | .pktMissionId => s.readGroup n .mid s.pktMissionId.toInt
  | .payloadOff => s.readGroup n .pay s.pay.payloadOff.toNat
  | .payloadLen => s.readGroup n .pay s.pay.payloadLen.toNat
  | .bfxCnt => s.readGroup n .bfx s.res.bfxCnt.toNat
  | .bfx i =>
    if i < s.res.bfxCnt.toNat then s.readGroup n .bfx (s.res.bfx.toList.getD i 0) else .fault (.invalidOutput n)

/-- What a host read of register number `n` returns. -/
def State.hostRead (s : State) (n : Nat) : Host.Outcome Int Fault Refusal :=
  match regOfNumber s.cfg n with
  | some r => s.readReg n r
  | none => .refused (.unimplementedRegister n)

/-- A host write of `v` to a register whose values are `p`: refused where `v` is none of them (70_reset_and_hazards R275). -/
def checkedWrite (n : Nat) (p : Bool) (t : State) : Host.Outcome State Fault Refusal :=
  if p then .next t else .refused (.valueTooWide n)

/-- A host write that would make `t`: refused where `T0_VALID = 1` stands beside a written `T0_US` outside its legal range
(70_reset_and_hazards R275; log 12). -/
def checkedT0 (t : State) : Host.Outcome State Fault Refusal :=
  if t.inp.t0Valid = 1 ∧ t.inp.t0Us.held = true ∧ ¬ t0InRange t.inp.t0Us.value.toInt then .refused .t0OutOfRange
  else .next t

/-- A host write of `v` to register `r`, whose number is `n`, other than `CMD`. A write to an `RO` register is ignored
(10_state R22). The arm of `cmd` is never reached: `runAction` starts a command instead. -/
def State.writeReg (s : State) (n : Nat) (r : Reg) (v : Int) : Host.Outcome State Fault Refusal :=
  match r with
  | .bufLen =>
    if ¬ fitsUnsigned 32 v then .refused (.valueTooWide n)
    else if (s.cfg.bufMax : Int) < v then .refused .bufLenAboveMax
    else .next { s with inp := { s.inp with bufLen := BitVec.ofInt 32 v } }
  | .missionId =>
    checkedWrite n (fitsSigned 32 v) { s with inp := { s.inp with missionId := .holding (BitVec.ofInt 32 v) } }
  | .missionKnown =>
    if v = 1 ∧ s.inp.missionId.held = false then .refused .missionIdMissing
    else checkedWrite n (fitsUnsigned 1 v) { s with inp := { s.inp with missionKnown := BitVec.ofInt 1 v } }
  | .t0Valid =>
    if ¬ fitsUnsigned 1 v then .refused (.valueTooWide n)
    else checkedT0 { s with inp := { s.inp with t0Valid := BitVec.ofInt 1 v } }
  | .t0Us =>
    if ¬ fitsSigned 64 v then .refused (.valueTooWide n)
    else checkedT0 { s with inp := { s.inp with t0Us := .holding (BitVec.ofInt 64 v) } }
  | .scetInCoarse =>
    checkedWrite n (fitsUnsigned 31 v) { s with inp := { s.inp with scetInCoarse := .holding (BitVec.ofInt 31 v) } }
  | .scetInFine =>
    checkedWrite n (fitsUnsigned 16 v) { s with inp := { s.inp with scetInFine := .holding (BitVec.ofInt 16 v) } }
  | .wlCnt =>
    checkedWrite n (fitsUnsigned (wlCntWidth s.cfg) v) { s with inp := { s.inp with wlCnt := BitVec.ofInt 5 v } }
  | .wl i =>
    checkedWrite n (fitsUnsigned 8 v)
      { s with inp := { s.inp with wl := s.inp.wl.setIfInBounds i (.holding (BitVec.ofInt 8 v)) } }
  | .cmd | .status | .errCode | .errUnit | .errReqBits | .errAvailBits | .errCause | .valid | .version | .ptype | .shf
  | .apid | .processId | .pktCat | .segFlag | .seqCount | .rawLen | .pktLen | .pusVer | .svcType | .svcSubtype | .destId
  | .syncBit | .timeSync | .coarse | .fine | .utcKind | .utcVal | .pktMissionId | .payloadOff | .payloadLen | .bfxCnt
  | .bfx _ => .next s

/-- A host write of `v` to register number `n`: to `CMD` it runs the command whose code is `v` to its end (10_state R25). -/
def State.hostWrite (s : State) (n : Nat) (v : Int) : Host.Outcome State Fault Refusal :=
  match regOfNumber s.cfg n with
  | some .cmd => if fitsUnsigned 8 v then exec (decode (BitVec.ofInt 8 v)) s else .refused (.valueTooWide n)
  | some r => s.writeReg n r v
  | none => .refused (.unimplementedRegister n)

/-- A host write of a byte of `BUF` (10_state R27). -/
def State.hostWriteByte (s : State) (a : Nat) (b : Byte) : Host.Outcome State Fault Refusal :=
  if a < s.cfg.bufMax then .next { s with buf := Memory.write s.buf a b } else .fault (.outsideBuffer a)

/-- What a host read of a byte of `BUF` returns (10_state R27, R22). -/
def State.hostReadByte (s : State) (a : Nat) : Host.Outcome Int Fault Refusal :=
  if a < s.cfg.bufMax then
    match Memory.read s.buf a with
    | some b => .next b.toNat
    | none => .refused (.noValueByte a)
  else .fault (.outsideBuffer a)

/-- A read changes nothing but what the host is given (70_reset_and_hazards R275). -/
def State.respond (s : State) (x : Host.Outcome Int Fault Refusal) : Host.Outcome State Fault Refusal :=
  match x with
  | .next v => .next { s with rdata := some v }
  | .fault f => .fault f
  | .refused r => .refused r

/-- One host move (30_encoding R102; reset: 70_reset_and_hazards R261; log 18 for what a reset keeps). -/
def runAction (a : HostAction) (s : State) : Host.Outcome State Fault Refusal :=
  match a with
  | .writeReg n v => s.hostWrite n v
  | .writeByte a b => s.hostWriteByte a b
  | .readReg n => s.respond (s.hostRead n)
  | .readByte a => s.respond (s.hostReadByte a)
  | .reset => .next (State.resetWith s.cfg s.eph s.host)

/-- The move at the head of the host's list is taken off it, and the answer of the read before is gone (logs 1 and 10). -/
def State.popAction (s : State) (rest : List HostAction) : State := { s with host := rest, rdata := none }

/-- `LOAD b0 b1 ...` as host transactions (30_encoding R102). -/
def loadActions (bs : List Byte) : List HostAction :=
  (Memory.ofBytes bs).map (fun c => HostAction.writeByte c.1 c.2) ++ [.writeReg 0x01 bs.length]

/-- `SETWL w0, w1, ...` as host transactions (30_encoding R102). -/
def setWlActions (ws : List Nat) : List HostAction :=
  (ws.zipIdx.map fun p => HostAction.writeReg (0x10 + p.2) p.1) ++ [.writeReg 0x08 ws.length]

/-- `CMD MNEMONIC` as a host transaction (30_encoding R102). -/
def cmdAction (i : Instr) : HostAction := .writeReg 0x00 (encode i).toNat

end Sys2Proof.Machine
end

