-- ==== Sys2Proof/Machine/Step.lean ====
section
/-! DEFINITION. One step of the machine: the next move of the host (00_scope R12, log 1). The block fetches no instruction
(00_scope R2): a command runs when the host writes its code to CMD. -/

namespace Sys2Proof.Machine

/-- The next host move, or none: "Between commands the block holds its state and does nothing" (60_exceptions R244). -/
def step (s : State) : Host.Outcome State Fault Refusal :=
  match s.host with
  | [] => .next s
  | a :: rest => Sys2Proof.Machine.runAction a (s.popAction rest)

/-- `s` with a write of the opcode-table word `w` to `CMD` as the host's very next move (log 2). -/
def State.withFetchWord (s : State) (nbits w : Nat) : State :=
  { s with host := .writeReg 0x00 (w % 2 ^ nbits : Nat) :: s.host }

end Sys2Proof.Machine
end

