-- ==== Sys2Proof/Machine/Calendar.lean ====
section
/-! DEFINITION. The calendar and the text of a UTC value (42_time_resolver R164 to R166). The block computes none of this:
it is how its `UTC_KIND` and `UTC_VAL` are read as the source's `utcTime`, and how a host makes `T0_US`. PRESUMED (log 17):
the spec marks the calendar as general knowledge. -/

namespace Sys2Proof.Machine

/-- A calendar date: year, month, day. -/
structure CivilDate where
  year : Int
  month : Int
  day : Int
deriving DecidableEq, Repr

/-- `civil_from_days(z)` (42_time_resolver R165); division is floor division, every divisor being positive. -/
def civilFromDays (days : Int) : CivilDate :=
  let z := days + 719468
  let era := z / 146097
  let doe := z - era * 146097
  let yoe := (doe - doe / 1460 + doe / 36524 - doe / 146096) / 365
  let doy := doe - (365 * yoe + yoe / 4 - yoe / 100)
  let mp := (5 * doy + 2) / 153
  let d := doy - (153 * mp + 2) / 5 + 1
  let m := if mp < 10 then mp + 3 else mp - 9
  let y := yoe + era * 400
  { year := if m ≤ 2 then y + 1 else y, month := m, day := d }

/-- `days_from_civil(y, m, d)` (42_time_resolver R165). -/
def daysFromCivil (date : CivilDate) : Int :=
  let y := if date.month ≤ 2 then date.year - 1 else date.year
  let era := y / 400
  let yoe := y - era * 400
  let mm := if 2 < date.month then date.month - 3 else date.month + 9
  let doy := (153 * mm + 2) / 5 + date.day - 1
  let doe := yoe * 365 + yoe / 4 - yoe / 100 + doy
  era * 146097 + doe - 719468

/-- The `T0_US` of a calendar time, as a host makes it (42_time_resolver R165). -/
def t0OfCivil (date : CivilDate) (hh mm ss micros : Int) : Int :=
  (((daysFromCivil date * 24 + hh) * 60 + mm) * 60 + ss) * 1000000 + micros

/-- `n` in decimal, in `width` digits, most significant first. -/
def decimalDigits : Nat → Nat → List Char
  | 0, _ => []
  | width + 1, n => decimalDigits width (n / 10) ++ [Char.ofNat (48 + n % 10)]

/-- `fmt(secs, frac, digits)` (42_time_resolver R166); none outside the years 0001 to 9999, for which it is not defined. -/
def formatUtc (secs frac : Int) (digits : Nat) : Option (List Char) :=
  let days := secs / 86400
  let sod := (secs % 86400).toNat
  let date := civilFromDays days
  if 1 ≤ date.year ∧ date.year ≤ 9999 then
    some (decimalDigits 4 date.year.toNat ++ ['-'] ++ decimalDigits 2 date.month.toNat ++ ['-']
      ++ decimalDigits 2 date.day.toNat ++ ['T'] ++ decimalDigits 2 (sod / 3600) ++ [':']
      ++ decimalDigits 2 (sod / 60 % 60) ++ [':'] ++ decimalDigits 2 (sod % 60) ++ ['.']
      ++ decimalDigits digits frac.toNat ++ ['Z'])
  else none

/-- `iso(kind, val)` (42_time_resolver R166): the sentinel with five fraction digits, a linear result with six, an
ephemeris result with five. None where the spec defines no text: kind 3, or a sentinel whose value is not 0. -/
def iso (kind : BitVec 2) (val : Int) : Option (List Char) :=
  if kind = UtcKind.sentinel.code then (if val = 0 then formatUtc 0 0 5 else none)
  else if kind = UtcKind.linear.code then formatUtc (val / 1000000) (val % 1000000) 6
  else if kind = UtcKind.ephemeris.code then formatUtc (val / 100000) (val % 100000) 5
  else none

/-- The text of the UTC group of a state; none where it holds no value (10_state R46). -/
def State.utcText (s : State) : Option (List Char) :=
  if s.isValid .utc then iso s.utc.utcKind s.utc.utcVal.toInt else none

end Sys2Proof.Machine
end

