-- ==== Sys2Proof/Safety.lean ====
section
/-! DEFINITION. What the statements are said in: what a command needs to run (70_reset_and_hazards R265), what a host may
write and what it can see of a state, and the invariant of the machine. -/

namespace Sys2Proof.Machine

/-- The bytes `BUF[0 .. n-1]` hold a value. -/
abbrev State.bufHolds (s : State) (n : Nat) : Prop := ∀ a < n, (Memory.read s.buf a).isSome = true

/-- The buffer begins with the bytes `bs`. -/
abbrev State.bufStarts (s : State) (bs : List Byte) : Prop := ∀ i < bs.length, Memory.read s.buf i = bs[i]?

/-- The status registers of a command that ended with no error: `STATUS.DONE`, the warning bit `w`, and the valid bits. -/
def StatusRegs.success (w : BitVec 1) (valid : BitVec 9) : StatusRegs where
  status := w ++ 0b01#2
  errCode := 0
  errUnit := 0
  errReqBits := 0
  errAvailBits := 0
  errCause := 0
  valid := valid

/-- The status registers of a command that ended by `raise`: `DONE`, `ERR`, the warning bit `w`, the record, and the valid
bits set before the error. -/
def StatusRegs.failure (w : BitVec 1) (code unit : BitVec 3) (req avail : Nat) (cause : BitVec 2) (valid : BitVec 9) :
    StatusRegs where
  status := w ++ 0b11#2
  errCode := code
  errUnit := unit
  errReqBits := BitVec.ofNat 32 req
  errAvailBits := BitVec.ofNat 32 avail
  errCause := cause
  valid := valid

/-- The sum of the widths of the width list. -/
def State.widthSum (s : State) : Nat := (s.widthEntries.map fun r => r.value.toNat).sum

/-- The entries of the width list are all written, and all legal widths (10_state R34). -/
abbrev State.widthsLegal (s : State) : Prop :=
  s.inp.wlCnt.toNat ≤ s.cfg.wlMax ∧
    ∀ r ∈ s.widthEntries, r.held = true ∧ r.value ≠ 0 ∧ r.value.toNat ≤ s.cfg.fieldMax

/-- What `resolve` needs, given the SCET pair (70_reset_and_hazards R265, the row of TRES). -/
abbrev State.timeInputsHeld (s : State) : Prop :=
  (s.inp.t0Valid = 1 → s.inp.t0Us.held = true) ∧
    (s.inp.t0Valid = 0 → s.inp.missionKnown = 1 → s.inp.missionId.held = true)

/-- Everything a command needs holds a value: the table of 70_reset_and_hazards R265, with "When `BUF_LEN` is below the
command's need the bytes need not be written". -/
def CommandReady (i : Instr) (s : State) : Prop :=
  match i with
  | .clr => True
  | .bfx =>
    s.inp.wlCnt.toNat ≤ s.cfg.wlMax →
      (∀ r ∈ s.widthEntries, r.held = true) ∧
        (s.widthSum ≤ s.availBits → s.bufHolds ((s.widthSum + 7) / 8))
  | .dpid => 2 ≤ s.inp.bufLen.toNat → s.bufHolds 2
  | .dpsc => 2 ≤ s.inp.bufLen.toNat → s.bufHolds 2
  | .dsph => 6 ≤ s.inp.bufLen.toNat → s.bufHolds 6
  | .tres =>
    s.timeInputsHeld ∧
      ((s.inp.t0Valid = 1 ∨ s.inp.missionKnown = 1) → s.inp.scetInCoarse.held = true ∧ s.inp.scetInFine.held = true)
  | .ddfh =>
    10 ≤ s.inp.bufLen.toNat →
      s.bufHolds 10 ∧ ((Memory.byteAt s.buf 4).getLsbD 7 = false → s.timeInputsHeld)
  | .dpkt =>
    16 ≤ s.inp.bufLen.toNat →
      s.bufHolds 16 ∧
        (s.inp.missionKnown = 1 →
          s.inp.missionId.held = true ∧ (s.inp.t0Valid = 1 → s.inp.t0Us.held = true))
  | .reserved _ => True

/-- The host writes of `v` to `HW` register `n` that R275 of 70_reset_and_hazards leaves the host free to make: `v` fits the
register and its range (10_state R26 to R34). `T0_VALID = 1` stands beside no written `T0_US` out of range (log 12), and
`MISSION_KNOWN = 1` beside no `MISSION_ID` without a value (log 13). -/
abbrev LegalWrite (s : State) (n : Nat) (v : Int) : Prop :=
  (n = 0x01 ∧ 0 ≤ v ∧ v ≤ s.cfg.bufMax) ∨
    (n = 0x02 ∧ fitsSigned 32 v) ∨
    (n = 0x03 ∧ (v = 0 ∨ (v = 1 ∧ s.inp.missionId.held = true))) ∨
    (n = 0x04 ∧ (v = 0 ∨ (v = 1 ∧ (s.inp.t0Us.held = true → t0InRange s.inp.t0Us.value.toInt)))) ∨
    (n = 0x05 ∧ fitsSigned 64 v ∧ (s.inp.t0Valid = 1 → t0InRange v)) ∨
    (n = 0x06 ∧ fitsUnsigned 31 v) ∨
    (n = 0x07 ∧ fitsUnsigned 16 v) ∨
    (n = 0x08 ∧ fitsUnsigned (wlCntWidth s.cfg) v) ∨
    (0x10 ≤ n ∧ n < 0x10 + s.cfg.wlMax ∧ fitsUnsigned 8 v)

/-- Two states that a host cannot tell apart by reading registers: every read of every register number gives the same. -/
def SameReads (s t : State) : Prop := ∀ n, s.hostRead n = t.hostRead n

/-- Two states that give a command the same inputs: input registers, buffer, parameters and ephemeris port. -/
def SameInputs (s t : State) : Prop := s.inp = t.inp ∧ s.buf = t.buf ∧ s.cfg = t.cfg ∧ s.eph = t.eph

/-- The buffer is in its canonical form and lies below `BUF_MAX`, and `BUF_LEN` is legal (10_state R26, R27). -/
abbrev State.bufferInv (s : State) : Prop :=
  Memory.wf s.buf = true ∧ (∀ c ∈ s.buf, c.1 < s.cfg.bufMax) ∧ s.inp.bufLen.toNat ≤ s.cfg.bufMax

/-- The host's registers hold what their widths and ranges allow, and a known mission has an identifier (10_state R31, R34,
70_reset_and_hazards R275). -/
abbrev State.inputInv (s : State) : Prop :=
  s.inp.wlCnt.toNat < 2 ^ wlCntWidth s.cfg ∧
    (s.inp.missionKnown = 1 → s.inp.missionId.held = true) ∧
    (s.inp.t0Valid = 1 → s.inp.t0Us.held = true → t0InRange s.inp.t0Us.value.toInt)

/-- The error record: `ERR` and `ERR_CODE` agree, the reserved codes are never written, a cause is recorded exactly for
`TIME_CONVERSION_ERROR`, and nothing is recorded or valid before a command has completed (10_state R33, R35, R38). -/
abbrev State.recordInv (s : State) : Prop :=
  (s.stat.status.getLsbD 1 = true ↔ s.stat.errCode ≠ 0) ∧
    s.stat.errCode.toNat ≤ 5 ∧
    (s.stat.errCause ≠ 0 ↔ s.stat.errCode = 2) ∧
    s.stat.errCause ≠ 3 ∧
    (s.stat.status.getLsbD 0 = false → s.stat = .reset)

/-- The valid output groups hold what the spec says of them (10_state R39 to R48, 00_scope R16). -/
abbrev State.outputInv (s : State) : Prop :=
  (s.isValid .pid = true → s.pid.processId.toNat * 16 + s.pid.pktCat.toNat = s.pid.apid.toNat) ∧
    (s.isValid .len = true → s.len.pktLen.toNat = s.len.rawLen.toNat + 1) ∧
    (s.isValid .dfh = true → s.dfh.timeSync = 1 - s.dfh.syncBit) ∧
    (s.isValid .utc = true → s.utc.utcKind ≠ 3) ∧
    (s.isValid .pay = true → s.pay.payloadOff = 16) ∧
    (s.isValid .bfx = true →
      s.res.bfxCnt.toNat ≤ s.cfg.wlMax ∧
        ∀ i < s.res.bfxCnt.toNat, s.res.bfx.toList.getD i 0 < 2 ^ s.cfg.fieldMax) ∧
    (s.isValid .pkt = true → s.stat.errCode = 0 ∧ s.stat.valid ||| 0x040 = 0x0FF)

/-- The invariant of the machine: it holds after reset and every step keeps it. -/
abbrev State.Inv (s : State) : Prop :=
  s.cfg.WellFormed ∧ s.bufferInv ∧ s.inputInv ∧ s.recordInv ∧ s.outputInv

end Sys2Proof.Machine
end

