-- ==== Sys2Proof/Certificates/Slice0/Obligations.lean ====
section
/-! DEFINITION. The statements for the provers. Each docstring names the rule of spec/ it formalises. -/

open Sys2Proof Sys2Proof.Machine

/-! ## Command codes -/

/-- 30_encoding R95: the code is the whole 8-bit value, and 0x08 to 0xFF are reserved. -/
def Obligations.DecodeReadsTheCodeMap : Prop :=
  decode 0x00 = .clr ∧ decode 0x01 = .bfx ∧ decode 0x02 = .dpid ∧ decode 0x03 = .dpsc ∧ decode 0x04 = .dsph ∧
    decode 0x05 = .tres ∧ decode 0x06 = .ddfh ∧ decode 0x07 = .dpkt ∧
    ∀ c : BitVec 8, 8 ≤ c.toNat → decode c = .reserved c

/-- 30_encoding R95: decoder and encoder agree, on every well-formed command and on every code. -/
def Obligations.DecodeAndEncodeAgree : Prop :=
  (∀ i : Instr, i.wellFormed = true → decode (encode i) = i) ∧
    ∀ c : BitVec 8, encode (decode c) = c ∧ (decode c).wellFormed = true ∧
      decodeTableWord 8 c.toNat = some (decode c)

/-! ## Host moves and steps -/

/-- 10_state R25: a host write of `c` to `CMD` runs the command whose code is `c` to its end, within that move. The step
takes the move off the host's list (log 1) and forgets the answer of the read before (log 10). -/
def Obligations.StepRunsTheCommandWrittenToCmd : Prop :=
  ∀ (s : State) (c : BitVec 8) (rest : List HostAction), s.host = .writeReg 0x00 c.toNat :: rest →
    step s = exec (decode c) { s with host := rest, rdata := none }

/-- 70_reset_and_hazards R261, log 2: with a word placed, the very next step runs that command. -/
def Obligations.PlacedWordRunsNext : Prop :=
  ∀ (s : State) (w : Nat), w < 256 →
    step (s.withFetchWord 8 w) = exec (decode (BitVec.ofNat 8 w)) { s with rdata := none }

/-- 60_exceptions R244, log 1: with no host move pending the block holds its state. -/
def Obligations.IdleStepHoldsTheState : Prop := ∀ s : State, s.host = [] → step s = .next s

/-- 10_state R22, R23: a host write that starts no command changes input registers only; a write to a read-only register
completes and changes nothing, whatever its value is (log 14). -/
def Obligations.HostWritesChangeInputsOnly : Prop :=
  (∀ (s t : State) (n : Nat) (v : Int), n ≠ 0x00 → s.hostWrite n v = .next t → t = { s with inp := t.inp }) ∧
    ∀ (s : State) (n : Nat) (v : Int), s.cfg.WellFormed → 0x20 ≤ n → regOfNumber s.cfg n ≠ none → s.hostWrite n v = .next s

/-- 10_state R22: an `HW` register reads back what the host wrote, and every other register number reads as before. -/
def Obligations.HostReadsBackWhatItWrote : Prop :=
  ∀ (s t : State) (n : Nat) (v : Int), s.cfg.WellFormed → n ≠ 0x00 → n < 0x20 → s.hostWrite n v = .next t →
    t.hostRead n = .next v ∧ ∀ m, m ≠ n → t.hostRead m = s.hostRead m

/-- 70_reset_and_hazards R275, 10_state R26 to R34: the host may write any `HW` register, with any value that fits it and its
range (for `T0_US`, `MISSION_KNOWN` and `WL_CNT` as logs 12, 13 and 15 read the rule): the write completes. -/
def Obligations.LegalHostWritesComplete : Prop :=
  ∀ (s : State) (n : Nat) (v : Int), s.cfg.WellFormed → LegalWrite s n v →
    ∃ t, s.hostWrite n v = .next t ∧ t.hostRead n = .next v

/-- 10_state R22, R26, R49, 70_reset_and_hazards R275: the host writes that have no move, each refused by name. That both
writes which would bring `T0_VALID = 1` beside a `T0_US` out of range are refused is log 12, that `MISSION_KNOWN = 1` is
refused at its write is log 13, the width of `WL_CNT` is log 15. -/
def Obligations.IllegalHostWritesAreRefused : Prop :=
  (∀ (s : State) (n : Nat) (v : Int), regOfNumber s.cfg n = none → s.hostWrite n v = .refused (.unimplementedRegister n)) ∧
    (∀ (s : State) (v : Int), (s.cfg.bufMax : Int) < v → v < 2 ^ 32 → s.hostWrite 0x01 v = .refused .bufLenAboveMax) ∧
    (∀ (s : State) (v : Int), s.inp.t0Valid = 1 → ¬ t0InRange v → fitsSigned 64 v → s.hostWrite 0x05 v = .refused .t0OutOfRange) ∧
    (∀ s : State, s.inp.t0Us.held = true → ¬ t0InRange s.inp.t0Us.value.toInt → s.hostWrite 0x04 1 = .refused .t0OutOfRange) ∧
    (∀ s : State, s.inp.missionId.held = false → s.hostWrite 0x03 1 = .refused .missionIdMissing) ∧
    ∀ (s : State) (v : Int),
      (¬ fitsUnsigned 8 v → s.hostWrite 0x00 v = .refused (.valueTooWide 0x00)) ∧
        (¬ fitsUnsigned 32 v → s.hostWrite 0x01 v = .refused (.valueTooWide 0x01)) ∧
        (¬ fitsSigned 32 v → s.hostWrite 0x02 v = .refused (.valueTooWide 0x02)) ∧
        (¬ fitsUnsigned 1 v → s.hostWrite 0x03 v = .refused (.valueTooWide 0x03)) ∧
        (¬ fitsUnsigned 1 v → s.hostWrite 0x04 v = .refused (.valueTooWide 0x04)) ∧
        (¬ fitsSigned 64 v → s.hostWrite 0x05 v = .refused (.valueTooWide 0x05)) ∧
        (¬ fitsUnsigned 31 v → s.hostWrite 0x06 v = .refused (.valueTooWide 0x06)) ∧
        (¬ fitsUnsigned 16 v → s.hostWrite 0x07 v = .refused (.valueTooWide 0x07)) ∧
        (¬ fitsUnsigned (wlCntWidth s.cfg) v → s.hostWrite 0x08 v = .refused (.valueTooWide 0x08)) ∧
        ∀ n, s.cfg.WellFormed → 0x10 ≤ n → n < 0x10 + s.cfg.wlMax → ¬ fitsUnsigned 8 v →
          s.hostWrite n v = .refused (.valueTooWide n)

/-- 10_state R49 and the table of section 10: a number in none of its rows is unimplemented, and a host access to it is
refused. -/
def Obligations.UnimplementedNumbersAreRefused : Prop :=
  ∀ (s : State) (n : Nat) (v : Int), s.cfg.WellFormed →
    (0x09 ≤ n ∧ n ≤ 0x0F) ∨ (0x10 + s.cfg.wlMax ≤ n ∧ n ≤ 0x1F) ∨ (0x27 ≤ n ∧ n ≤ 0x2F) ∨ (0x3A ≤ n ∧ n ≤ 0x3F) ∨
      (0x4D ≤ n ∧ n ≤ 0x4F) ∨ (0x51 ≤ n ∧ n ≤ 0x5F) ∨ 0x60 + s.cfg.wlMax ≤ n →
    s.hostRead n = .refused (.unimplementedRegister n) ∧ s.hostWrite n v = .refused (.unimplementedRegister n)

/-- 10_state R27, R22, 20_memory R60: a byte of `BUF` reads back as written, every other byte is as before, and nothing
else changes. -/
def Obligations.BufferByteReadsBack : Prop :=
  ∀ (s : State) (a : Nat) (b : Byte), a < s.cfg.bufMax →
    ∃ t, s.hostWriteByte a b = .next t ∧ t = { s with buf := t.buf } ∧ t.hostReadByte a = .next b.toNat ∧
      ∀ a', a' ≠ a → t.hostReadByte a' = s.hostReadByte a'

/-- 10_state R39, R48: a read of a register of an invalid group, or of a result at or above `BFX_CNT`, is a fault, never a
value. That it is a fault, of the two ways R39 gives, is log 6. -/
def Obligations.InvalidGroupsCannotBeRead : Prop :=
  ∀ (s : State) (n : Nat), s.cfg.WellFormed →
    (s.isValid .pid = false → 0x30 ≤ n → n ≤ 0x35 → s.hostRead n = .fault (.invalidOutput n)) ∧
      (s.isValid .psc = false → 0x36 ≤ n → n ≤ 0x37 → s.hostRead n = .fault (.invalidOutput n)) ∧
      (s.isValid .len = false → 0x38 ≤ n → n ≤ 0x39 → s.hostRead n = .fault (.invalidOutput n)) ∧
      (s.isValid .dfh = false → 0x40 ≤ n → n ≤ 0x47 → s.hostRead n = .fault (.invalidOutput n)) ∧
      (s.isValid .utc = false → 0x48 ≤ n → n ≤ 0x49 → s.hostRead n = .fault (.invalidOutput n)) ∧
      (s.isValid .mid = false → n = 0x4A → s.hostRead n = .fault (.invalidOutput n)) ∧
      (s.isValid .pay = false → 0x4B ≤ n → n ≤ 0x4C → s.hostRead n = .fault (.invalidOutput n)) ∧
      (s.isValid .bfx = false → n = 0x50 ∨ (0x60 ≤ n ∧ n < 0x60 + s.cfg.wlMax) →
        s.hostRead n = .fault (.invalidOutput n)) ∧
      (s.isValid .bfx = true → 0x60 + s.res.bfxCnt.toNat ≤ n → n < 0x60 + s.cfg.wlMax →
        s.hostRead n = .fault (.invalidOutput n))

/-- 10_state R33, R35 to R38, R42 to R48 and the table of section 10: a read of a status register returns it, and a read of
an output register whose group is valid returns the register of that number. -/
def Obligations.OutputsReadAsTheirRegisters : Prop :=
  ∀ s : State, s.cfg.WellFormed →
    (s.hostRead 0x20 = .next s.stat.status.toNat ∧ s.hostRead 0x21 = .next s.stat.errCode.toNat ∧
      s.hostRead 0x22 = .next s.stat.errUnit.toNat ∧ s.hostRead 0x23 = .next s.stat.errReqBits.toNat ∧
      s.hostRead 0x24 = .next s.stat.errAvailBits.toNat ∧ s.hostRead 0x25 = .next s.stat.errCause.toNat ∧
      s.hostRead 0x26 = .next s.stat.valid.toNat) ∧
    (s.isValid .pid = true →
      s.hostRead 0x30 = .next s.pid.version.toNat ∧ s.hostRead 0x31 = .next s.pid.ptype.toNat ∧
        s.hostRead 0x32 = .next s.pid.shf.toNat ∧ s.hostRead 0x33 = .next s.pid.apid.toNat ∧
        s.hostRead 0x34 = .next s.pid.processId.toNat ∧ s.hostRead 0x35 = .next s.pid.pktCat.toNat) ∧
    (s.isValid .psc = true →
      s.hostRead 0x36 = .next s.psc.segFlag.toNat ∧ s.hostRead 0x37 = .next s.psc.seqCount.toNat) ∧
    (s.isValid .len = true →
      s.hostRead 0x38 = .next s.len.rawLen.toNat ∧ s.hostRead 0x39 = .next s.len.pktLen.toNat) ∧
    (s.isValid .dfh = true →
      s.hostRead 0x40 = .next s.dfh.pusVer.toNat ∧ s.hostRead 0x41 = .next s.dfh.svcType.toNat ∧
        s.hostRead 0x42 = .next s.dfh.svcSubtype.toNat ∧ s.hostRead 0x43 = .next s.dfh.destId.toNat ∧
        s.hostRead 0x44 = .next s.dfh.syncBit.toNat ∧ s.hostRead 0x45 = .next s.dfh.timeSync.toNat ∧
        s.hostRead 0x46 = .next s.dfh.coarse.toNat ∧ s.hostRead 0x47 = .next s.dfh.fine.toNat) ∧
    (s.isValid .utc = true →
      s.hostRead 0x48 = .next s.utc.utcKind.toNat ∧ s.hostRead 0x49 = .next s.utc.utcVal.toInt) ∧
    (s.isValid .mid = true → s.hostRead 0x4A = .next s.pktMissionId.toInt) ∧
    (s.isValid .pay = true →
      s.hostRead 0x4B = .next s.pay.payloadOff.toNat ∧ s.hostRead 0x4C = .next s.pay.payloadLen.toNat) ∧
    (s.isValid .bfx = true →
      s.hostRead 0x50 = .next s.res.bfxCnt.toNat ∧
        ∀ i, i < s.res.bfxCnt.toNat → i < s.cfg.wlMax → s.hostRead (0x60 + i) = .next (s.res.bfx.toList.getD i 0))

/-- 10_state R22, R25, R26 to R34 and the table of section 10: a read of an input register returns the register of that
number where it holds a value, and else is refused (R260; log 4); `CMD` returns no value. -/
def Obligations.InputsReadAsTheirRegisters : Prop :=
  ∀ s : State,
    s.hostRead 0x00 = .refused .commandRead ∧
      s.hostRead 0x01 = .next s.inp.bufLen.toNat ∧
      s.hostRead 0x02 = (if s.inp.missionId.held then .next s.inp.missionId.value.toInt else .refused (.noValueRegister 0x02)) ∧
      s.hostRead 0x03 = .next s.inp.missionKnown.toNat ∧
      s.hostRead 0x04 = .next s.inp.t0Valid.toNat ∧
      s.hostRead 0x05 = (if s.inp.t0Us.held then .next s.inp.t0Us.value.toInt else .refused (.noValueRegister 0x05)) ∧
      s.hostRead 0x06 =
        (if s.inp.scetInCoarse.held then .next s.inp.scetInCoarse.value.toNat else .refused (.noValueRegister 0x06)) ∧
      s.hostRead 0x07 =
        (if s.inp.scetInFine.held then .next s.inp.scetInFine.value.toNat else .refused (.noValueRegister 0x07)) ∧
      s.hostRead 0x08 = .next s.inp.wlCnt.toNat ∧
      ∀ i, i < 16 → i < s.cfg.wlMax → s.hostRead (0x10 + i) =
        (if (s.wlEntry i).held then .next (s.wlEntry i).value.toNat else .refused (.noValueRegister (0x10 + i)))

/-- 70_reset_and_hazards R275, 10_state R22, R27: a step whose host move is a read gives the host the value and changes
nothing else, and stops where the read has no value; a step whose host move is a write is that write. The list of moves and
the read's answer are the model's own (logs 1 and 10). -/
def Obligations.ReadAndWriteMovesInAStep : Prop :=
  ∀ (s : State) (rest : List HostAction),
    (∀ n, s.host = .readReg n :: rest →
      (∀ v, s.hostRead n = .next v → step s = .next { s with host := rest, rdata := some v }) ∧
        (∀ f, s.hostRead n = .fault f → step s = .fault f) ∧
        ∀ r, s.hostRead n = .refused r → step s = .refused r) ∧
    (∀ a, s.host = .readByte a :: rest →
      (∀ v, s.hostReadByte a = .next v → step s = .next { s with host := rest, rdata := some v }) ∧
        (∀ f, s.hostReadByte a = .fault f → step s = .fault f) ∧
        ∀ r, s.hostReadByte a = .refused r → step s = .refused r) ∧
    (∀ a b, s.host = .writeByte a b :: rest → step s = State.hostWriteByte { s with host := rest, rdata := none } a b) ∧
    ∀ n v, s.host = .writeReg n v :: rest → step s = State.hostWrite { s with host := rest, rdata := none } n v

/-- 70_reset_and_hazards R260: after reset the registers with a reset value read 0; no other register, and no byte of
`BUF`, returns a value. -/
def Obligations.ResetReadsAsTheSpecSays : Prop :=
  (∀ n ∈ [0x01, 0x03, 0x04, 0x08, 0x20, 0x21, 0x22, 0x23, 0x24, 0x25, 0x26], State.reset.hostRead n = .next 0) ∧
    (∀ n, n ∉ [0x01, 0x03, 0x04, 0x08, 0x20, 0x21, 0x22, 0x23, 0x24, 0x25, 0x26] → ∀ v, State.reset.hostRead n ≠ .next v) ∧
    ∀ a v, State.reset.hostReadByte a ≠ .next v

/-- 70_reset_and_hazards R261, log 18: a reset between commands gives the state after reset; the parameters and the outside
of the block stay. -/
def Obligations.ResetMoveGivesTheResetState : Prop :=
  ∀ (s : State) (rest : List HostAction), s.host = .reset :: rest →
    step s = .next { State.reset with cfg := s.cfg, eph := s.eph, host := rest }

/-! ## Prologue, errors, extraction -/

/-- 10_state R40: the prologue clears the status registers and every valid bit, and touches nothing else. -/
def Obligations.PrologueClearsStatusAndValid : Prop :=
  ∀ s : State, s.beginCmd = { s with stat := ⟨0, 0, 0, 0, 0, 0, 0⟩ } ∧ ∀ g, s.beginCmd.isValid g = false

/-- 60_exceptions R232: `raise` writes the record and DONE; outputs and valid bits keep what they hold. -/
def Obligations.RaiseRecordsTheErrorAndNothingElse : Prop :=
  ∀ (e : ErrKind) (u : ErrUnit) (req avail : Nat) (k : ErrCause) (s : State),
    (s.raise e u req avail k).stat.status.getLsbD 0 = true ∧
      (s.raise e u req avail k).stat.status.getLsbD 1 = true ∧
      (s.raise e u req avail k).stat.status.getLsbD 2 = s.stat.status.getLsbD 2 ∧
      (s.raise e u req avail k).stat.errCode = e.code ∧
      (s.raise e u req avail k).stat.errUnit = u.code ∧
      (s.raise e u req avail k).stat.errReqBits = BitVec.ofNat 32 req ∧
      (s.raise e u req avail k).stat.errAvailBits = BitVec.ofNat 32 avail ∧
      (s.raise e u req avail k).stat.errCause = k.code ∧
      (s.raise e u req avail k).stat.valid = s.stat.valid ∧
      { s.raise e u req avail k with stat := s.stat } = s

/-- 40_bitfield_extract R111, 00_scope R8: bit `w-1-j` of `getbits(p, w)` is stream bit `p+j`, and the value is below
`2^w`. -/
def Obligations.GetbitsPlacesEachStreamBit : Prop :=
  ∀ (m : Memory) (p w j : Nat), j < w →
    (getbits m p w).testBit (w - 1 - j) = (Memory.byteAt m ((p + j) / 8)).getLsbD (7 - (p + j) % 8) ∧ getbits m p w < 2 ^ w

/-- 40_bitfield_extract R118: a field depends on its own bits only, and a field split in two gives its high and low part. -/
def Obligations.FieldsAreIndependentAndSplit : Prop :=
  (∀ (m m' : Memory) (p w : Nat), (∀ j < w, sbit m (p + j) = sbit m' (p + j)) → getbits m p w = getbits m' p w) ∧
    ∀ (m : Memory) (p a b : Nat),
      getbits m p a = getbits m p (a + b) / 2 ^ b ∧ getbits m (p + a) b = getbits m p (a + b) % 2 ^ b

/-- 40_bitfield_extract R120: field `i` is `getbits` at the sum of the widths before it, and the cursor after a list of
fields is their sum. -/
def Obligations.FieldsLieBackToBack : Prop :=
  ∀ (m : Memory) (p : Nat) (ws vs : List Nat),
    (∀ i < ws.length, (fields m p ws)[i]? = some (getbits m (p + (ws.take i).sum) (ws.getD i 0))) ∧
      (fields m p ws).length = ws.length ∧
      fields m p (ws ++ vs) = fields m p ws ++ fields m (p + ws.sum) vs

/-! ## Control commands -/

/-- 45_control R215: `DONE` alone is set, nothing is valid, everything else is as before, and a second CLR changes
nothing. -/
def Obligations.ClrClearsStatusAndOutputs : Prop :=
  ∀ s : State, exec .clr s = .next { s with stat := ⟨0b001, 0, 0, 0, 0, 0, 0⟩ } ∧
    ∀ t, exec .clr s = .next t → exec .clr t = .next t

/-- 45_control R217, 30_encoding R99: every code from 0x08 on raises `ILLEGAL_COMMAND`: the outputs are lost, the buffer
and the inputs untouched, no request made, and the code is not recorded. -/
def Obligations.ReservedCodesAreIllegalCommands : Prop :=
  ∀ (code : BitVec 8) (s : State), 8 ≤ code.toNat →
    decode code = .reserved code ∧ exec (.reserved code) s = .next { s with stat := ⟨0b011, 4, 0, 0, 0, 0, 0⟩ }

/-! ## BFX -/

/-- 40_bitfield_extract R112, R115, R116: with a legal width list and enough bits, BFX writes the fields, their number and
V_BFX, and nothing else. -/
def Obligations.BfxExtractsTheWidthList : Prop :=
  ∀ s : State, s.cfg.WellFormed → s.widthsLegal → s.widthSum ≤ s.availBits → s.bufHolds ((s.widthSum + 7) / 8) →
    ∃ t, exec .bfx s = .next t ∧
      t.res.bfxCnt = s.inp.wlCnt ∧
      (∀ i < s.inp.wlCnt.toNat, t.res.bfx.toList.getD i 0 =
        getbits s.buf ((s.widthEntries.take i).map fun r => r.value.toNat).sum (s.wlEntry i).value.toNat) ∧
      (∀ i, s.inp.wlCnt.toNat ≤ i → t.res.bfx.toList.getD i 0 = s.res.bfx.toList.getD i 0) ∧
      t.stat = .success 0 0x100 ∧
      t = { s with stat := t.stat, res := t.res }

/-- 40_bitfield_extract R114, R112: a count above `WL_MAX`, or a first entry that is no legal width, raises `BAD_WIDTH_LIST`
whatever the buffer is; nothing is extracted. That it raises also where entries after the bad one hold no value is the
model's reading of 70_reset_and_hazards R265 and R266 (log 5). -/
def Obligations.BfxRejectsABadWidthList : Prop :=
  (∀ s : State, s.cfg.wlMax < s.inp.wlCnt.toNat →
    exec .bfx s = .next { s with stat := .failure 0 5 1 s.inp.wlCnt.toNat 0 0 0 }) ∧
    ∀ (s : State) (i : Nat) (r : InputReg 8), s.inp.wlCnt.toNat ≤ s.cfg.wlMax →
      (∀ q ∈ s.widthEntries.take i, q.held = true ∧ q.value ≠ 0 ∧ q.value.toNat ≤ s.cfg.fieldMax) →
      s.widthEntries[i]? = some r → r.held = true → (r.value = 0 ∨ s.cfg.fieldMax < r.value.toNat) →
      exec .bfx s = .next { s with stat := .failure 0 5 1 i 0 0 0 }

/-! ## Short buffers -/

/-- 60_exceptions R226: each command's required bits; a shorter buffer ends it with `BUFFER_TOO_SHORT` and no output. -/
def Obligations.ShortBuffersFailWhole : Prop :=
  ∀ s : State,
    (s.widthsLegal → s.availBits < s.widthSum →
      exec .bfx s = .next { s with stat := .failure 0 1 1 s.widthSum (8 * s.inp.bufLen.toNat) 0 0 }) ∧
    (s.inp.bufLen.toNat < 2 → exec .dpid s = .next { s with stat := .failure 0 1 2 16 (8 * s.inp.bufLen.toNat) 0 0 }) ∧
    (s.inp.bufLen.toNat < 2 → exec .dpsc s = .next { s with stat := .failure 0 1 3 16 (8 * s.inp.bufLen.toNat) 0 0 }) ∧
    (s.inp.bufLen.toNat < 6 → exec .dsph s = .next { s with stat := .failure 0 1 4 48 (8 * s.inp.bufLen.toNat) 0 0 }) ∧
    (s.inp.bufLen.toNat < 10 → exec .ddfh s = .next { s with stat := .failure 0 1 5 80 (8 * s.inp.bufLen.toNat) 0 0 }) ∧
    (s.inp.bufLen.toNat < 16 →
      exec .dpkt s =
        .next { s with stat := .failure (1 - s.inp.missionKnown) 1 6 128 (8 * s.inp.bufLen.toNat) 0 0 })

/-! ## Primary header -/

/-- 41_primary_header R131, R133, 30_encoding R81: with `W = BUF[0]*256 + BUF[1]`, the Packet ID's fields are `W[15:13]`,
`W[12]`, `W[11]`, `W[10:0]`, and the APID splits 7 + 4; V_PID alone is valid and nothing else changes. -/
def Obligations.DpidDecodesThePacketId : Prop :=
  ∀ (s : State) (b0 b1 : Byte), 2 ≤ s.inp.bufLen.toNat → s.bufStarts [b0, b1] →
    ∃ t, exec .dpid s = .next t ∧
      t.pid.version.toNat = (b0.toNat * 256 + b1.toNat) / 8192 ∧
      t.pid.ptype.toNat = (b0.toNat * 256 + b1.toNat) / 4096 % 2 ∧
      t.pid.shf.toNat = (b0.toNat * 256 + b1.toNat) / 2048 % 2 ∧
      t.pid.apid.toNat = (b0.toNat * 256 + b1.toNat) % 2048 ∧
      t.pid.processId.toNat = t.pid.apid.toNat / 16 ∧
      t.pid.pktCat.toNat = t.pid.apid.toNat % 16 ∧
      t.stat = .success 0 0x001 ∧
      t = { s with stat := t.stat, pid := t.pid }

/-- 41_primary_header R136, 30_encoding R82: with `W` the same word, `SEG_FLAG = W[15:14]` and `SEQ_COUNT = W[13:0]`. -/
def Obligations.DpscDecodesTheSequenceControl : Prop :=
  ∀ (s : State) (b0 b1 : Byte), 2 ≤ s.inp.bufLen.toNat → s.bufStarts [b0, b1] →
    ∃ t, exec .dpsc s = .next t ∧
      t.psc.segFlag.toNat = (b0.toNat * 256 + b1.toNat) / 16384 ∧
      t.psc.seqCount.toNat = (b0.toNat * 256 + b1.toNat) % 16384 ∧
      t.stat = .success 0 0x002 ∧
      t = { s with stat := t.stat, psc := t.psc }

/-- 41_primary_header R139, R140, R142, 30_encoding R83: the three 16-bit parts of the header, and the length plus one
without wrapping; bytes from offset 6 do not matter. -/
def Obligations.DsphDecodesTheHeader : Prop :=
  ∀ (s : State) (b0 b1 b2 b3 b4 b5 : Byte), 6 ≤ s.inp.bufLen.toNat → s.bufStarts [b0, b1, b2, b3, b4, b5] →
    ∃ t, exec .dsph s = .next t ∧
      t.pid.version.toNat = (b0.toNat * 256 + b1.toNat) / 8192 ∧
      t.pid.ptype.toNat = (b0.toNat * 256 + b1.toNat) / 4096 % 2 ∧
      t.pid.shf.toNat = (b0.toNat * 256 + b1.toNat) / 2048 % 2 ∧
      t.pid.apid.toNat = (b0.toNat * 256 + b1.toNat) % 2048 ∧
      t.pid.processId.toNat * 16 + t.pid.pktCat.toNat = t.pid.apid.toNat ∧
      t.psc.segFlag.toNat = (b2.toNat * 256 + b3.toNat) / 16384 ∧
      t.psc.seqCount.toNat = (b2.toNat * 256 + b3.toNat) % 16384 ∧
      t.len.rawLen.toNat = b4.toNat * 256 + b5.toNat ∧
      t.len.pktLen.toNat = b4.toNat * 256 + b5.toNat + 1 ∧
      t.stat = .success 0 0x007 ∧
      t = { s with stat := t.stat, pid := t.pid, psc := t.psc, len := t.len }

/-! ## Time resolver -/

/-- 42_time_resolver R156: `rdiv` in half-even rounding is a nearest integer, the even one on a tie; `truncate` rounds
down; a tie of the microsecond fraction occurs exactly when `f mod 1024 = 512`; the fraction never carries into the
seconds, and the elapsed time is at most 2147483647999985. -/
def Obligations.MicrosecondsRoundAsStated : Prop :=
  (∀ n d : Nat, 0 < d →
    2 * n ≤ 2 * d * rdiv .halfEven n d + d ∧ 2 * d * rdiv .halfEven n d ≤ 2 * n + d ∧
      (2 * (n % d) = d → rdiv .halfEven n d % 2 = 0) ∧
      d * rdiv .truncate n d ≤ n ∧ n < d * (rdiv .truncate n d + 1)) ∧
    ∀ (r : UsecRounding) (c : BitVec 31) (f : BitVec 16),
      (2 * (f.toNat * 15625 % 1024) = 1024 ↔ f.toNat % 1024 = 512) ∧
        rdiv r (f.toNat * 15625) 1024 ≤ 999985 ∧
        elapsedUs r c f = c.toNat * 1000000 + rdiv r (f.toNat * 15625) 1024 ∧
        elapsedUs r c f ≤ 2147483647999985

/-- 42_time_resolver R157, R158: with `T0_US` in its legal range the sum is below 2^58 in magnitude and is the value
stored. -/
def Obligations.LinearSumIsExactInRange : Prop :=
  ∀ (r : UsecRounding) (t0 : BitVec 64) (c : BitVec 31) (f : BitVec 16), t0InRange t0.toInt →
    (linearUtc r t0 c f).toInt = t0.toInt + elapsedUs r c f ∧
      -(2 ^ 58) < t0.toInt + elapsedUs r c f ∧ t0.toInt + elapsedUs r c f < 2 ^ 58

/-- 42_time_resolver R151, R152, R153: with `T0_VALID = 1` TRES adds the elapsed time to `T0_US`, whatever the mission
registers hold, reads no buffer and makes no request. -/
def Obligations.TresLinearAddsElapsedTime : Prop :=
  ∀ s : State, s.inp.t0Valid = 1 → s.inp.t0Us.held = true → s.inp.scetInCoarse.held = true → s.inp.scetInFine.held = true →
    t0InRange s.inp.t0Us.value.toInt →
    ∃ t, exec .tres s = .next t ∧
      t.utc.utcKind = 1 ∧
      t.utc.utcVal.toInt =
        s.inp.t0Us.value.toInt + elapsedUs s.cfg.usecRounding s.inp.scetInCoarse.value s.inp.scetInFine.value ∧
      t.stat = .success 0 0x010 ∧
      t = { s with stat := t.stat, utc := t.utc }

/-- 42_time_resolver R151, R154, R160, R162: with `T0_VALID = 0` TRES raises `MISSION_UNRECOGNIZED` for an unknown mission
without a request; else it makes one request, of the mission, the pair and the constant 5, copies the answer when `ok = 1`
and raises `SERVICE_FAILED` when `ok = 0`. The answer is whatever the service gives (log 8). -/
def Obligations.TresEphemerisAsksTheService : Prop :=
  (∀ s : State, s.inp.t0Valid = 0 → s.inp.missionKnown = 0 →
    exec .tres s = .next { s with stat := .failure 0 2 7 0 0 1 0 }) ∧
    ∀ s : State, s.inp.t0Valid = 0 → s.inp.missionKnown = 1 → s.inp.missionId.held = true →
      s.inp.scetInCoarse.held = true → s.inp.scetInFine.held = true →
      ∃ t, exec .tres s = .next t ∧
        t.eph.requests =
          ⟨s.inp.missionId.value, s.inp.scetInCoarse.value, s.inp.scetInFine.value, 5⟩ :: s.eph.requests ∧
        t.eph.answers = s.eph.answers.tail ∧
        ((s.ephAnswer ⟨s.inp.missionId.value, s.inp.scetInCoarse.value, s.inp.scetInFine.value, 5⟩).ok = 1 →
          t.utc = ⟨2, (s.ephAnswer ⟨s.inp.missionId.value, s.inp.scetInCoarse.value, s.inp.scetInFine.value, 5⟩).cal⟩ ∧
            t.stat = .success 0 0x010) ∧
        ((s.ephAnswer ⟨s.inp.missionId.value, s.inp.scetInCoarse.value, s.inp.scetInFine.value, 5⟩).ok = 0 →
          t.utc = s.utc ∧ t.stat = .failure 0 2 7 0 0 2 0) ∧
        t = { s with stat := t.stat, utc := t.utc, eph := t.eph }

/-! ## Data field header -/

/-- 43_data_field_header R182, R187, 30_encoding R84, R97: the named fields of the ten bytes; the two spares do not matter,
and the top bit of byte 4 belongs to the synchronization bit, not to the time. Whatever the time policy then does, the
fields are valid and no group but DFH and UTC is. -/
def Obligations.DdfhDecodesTheNamedFields : Prop :=
  ∀ (s : State) (b0 b1 b2 b3 b4 b5 b6 b7 b8 b9 : Byte), 10 ≤ s.inp.bufLen.toNat →
    s.bufStarts [b0, b1, b2, b3, b4, b5, b6, b7, b8, b9] → CommandReady .ddfh s →
    ∃ t, exec .ddfh s = .next t ∧
      t.dfh.pusVer.toNat = b0.toNat / 16 % 8 ∧ t.dfh.svcType = b1 ∧ t.dfh.svcSubtype = b2 ∧ t.dfh.destId = b3 ∧
      t.dfh.syncBit.toNat = b4.toNat / 128 ∧ t.dfh.timeSync.toNat = 1 - b4.toNat / 128 ∧
      t.dfh.coarse.toNat = b4.toNat % 128 * 2 ^ 24 + b5.toNat * 2 ^ 16 + b6.toNat * 2 ^ 8 + b7.toNat ∧
      t.dfh.fine.toNat = b8.toNat * 256 + b9.toNat ∧
      t.isValid .dfh = true ∧ (∀ g, g ≠ .dfh → g ≠ .utc → t.isValid g = false) ∧
      t = { s with stat := t.stat, dfh := t.dfh, utc := t.utc, eph := t.eph }

/-- 43_data_field_header R183: an unsynchronized header gives the sentinel, whatever the time fields, the mission and `t0`
are, held or not, and no request is made. -/
def Obligations.DdfhUnsynchronizedGivesTheSentinel : Prop :=
  ∀ s : State, 10 ≤ s.inp.bufLen.toNat → s.bufHolds 10 → (Memory.byteAt s.buf 4).getLsbD 7 = true →
    exec .ddfh s = .next { s with stat := .success 0 0x018, dfh := dfhFields s.buf 0, utc := ⟨0, 0⟩ }

/-- 43_data_field_header R181, R183: a synchronized header with `T0_VALID = 1` gets `T0_US` plus the elapsed time. -/
def Obligations.DdfhSynchronizedLinear : Prop :=
  ∀ s : State, 10 ≤ s.inp.bufLen.toNat → s.bufHolds 10 → (Memory.byteAt s.buf 4).getLsbD 7 = false →
    s.inp.t0Valid = 1 → s.inp.t0Us.held = true → t0InRange s.inp.t0Us.value.toInt →
    ∃ t, exec .ddfh s = .next t ∧
      t.dfh = dfhFields s.buf 0 ∧ t.utc.utcKind = 1 ∧
      t.utc.utcVal.toInt = s.inp.t0Us.value.toInt + elapsedUs s.cfg.usecRounding t.dfh.coarse t.dfh.fine ∧
      t.stat = .success 0 0x018 ∧
      t = { s with stat := t.stat, dfh := t.dfh, utc := t.utc }

/-- 43_data_field_header R184: without `t0`, a synchronized header with an unknown mission, or one the service fails on,
ends in `TIME_CONVERSION_ERROR` with the fields valid and UTC not; an answer with `ok = 1` is copied. -/
def Obligations.DdfhEphemerisAndItsErrors : Prop :=
  ∀ s : State, 10 ≤ s.inp.bufLen.toNat → s.bufHolds 10 → (Memory.byteAt s.buf 4).getLsbD 7 = false → s.inp.t0Valid = 0 →
    (s.inp.missionKnown = 0 →
      exec .ddfh s = .next { s with stat := .failure 0 2 5 0 0 1 0x008, dfh := dfhFields s.buf 0 }) ∧
    (s.inp.missionKnown = 1 → s.inp.missionId.held = true →
      (s.ephAnswer ⟨s.inp.missionId.value, (dfhFields s.buf 0).coarse, (dfhFields s.buf 0).fine, 5⟩).ok = 0 →
      exec .ddfh s = .next { s with
        stat := .failure 0 2 5 0 0 2 0x008, dfh := dfhFields s.buf 0,
        eph := ⟨s.eph.answers.tail,
          ⟨s.inp.missionId.value, (dfhFields s.buf 0).coarse, (dfhFields s.buf 0).fine, 5⟩ :: s.eph.requests⟩ }) ∧
    (s.inp.missionKnown = 1 → s.inp.missionId.held = true →
      (s.ephAnswer ⟨s.inp.missionId.value, (dfhFields s.buf 0).coarse, (dfhFields s.buf 0).fine, 5⟩).ok = 1 →
      exec .ddfh s = .next { s with
        stat := .success 0 0x018, dfh := dfhFields s.buf 0,
        utc := ⟨2, (s.ephAnswer ⟨s.inp.missionId.value, (dfhFields s.buf 0).coarse, (dfhFields s.buf 0).fine, 5⟩).cal⟩,
        eph := ⟨s.eph.answers.tail,
          ⟨s.inp.missionId.value, (dfhFields s.buf 0).coarse, (dfhFields s.buf 0).fine, 5⟩ :: s.eph.requests⟩ })

/-! ## Whole packet -/

/-- 44_packet_decoder R196, R204, R201: a packet of a known mission with `t0`, and no length check, decodes whole: both
headers, the payload bounds, the mission, the time; every group but BFX is valid, and nothing else changes. -/
def Obligations.DpktDecodesAKnownMission : Prop :=
  ∀ s : State, 16 ≤ s.inp.bufLen.toNat → s.bufHolds 16 → s.inp.missionKnown = 1 → s.inp.missionId.held = true →
    s.inp.t0Valid = 1 → s.inp.t0Us.held = true → t0InRange s.inp.t0Us.value.toInt → s.cfg.checkLength = false →
    ∃ t, exec .dpkt s = .next t ∧
      t.pid = pidFields s.buf 0 ∧ t.psc = pscFields s.buf 16 ∧ t.len = lenFields s.buf 32 ∧ t.dfh = dfhFields s.buf 48 ∧
      t.pay.payloadOff.toNat = 16 ∧ t.pay.payloadLen.toNat + 16 = s.inp.bufLen.toNat ∧
      t.pktMissionId = s.inp.missionId.value ∧
      (t.dfh.syncBit = 1 → t.utc = ⟨0, 0⟩) ∧
      (t.dfh.syncBit = 0 → t.utc.utcKind = 1 ∧
        t.utc.utcVal.toInt = s.inp.t0Us.value.toInt + elapsedUs s.cfg.usecRounding t.dfh.coarse t.dfh.fine) ∧
      t.stat = .success 0 0x0FF ∧
      t = { s with
        stat := t.stat, pid := t.pid, psc := t.psc, len := t.len, dfh := t.dfh, utc := t.utc,
        pktMissionId := t.pktMissionId, pay := t.pay }

/-- 44_packet_decoder R198, R199, R203: an unknown mission sets the warning and forces `t0` to the sentinel epoch, also when
the host supplied one; everything but the mission is decoded and valid, no request is made, and nothing else changes. Only
the length check can fail then, and it leaves everything decoded valid but the packet. -/
def Obligations.DpktUnknownMissionForcesTheSentinelEpoch : Prop :=
  ∀ s : State, 16 ≤ s.inp.bufLen.toNat → s.bufHolds 16 → s.inp.missionKnown = 0 →
    ∃ t, exec .dpkt s = .next t ∧
      t.pid = pidFields s.buf 0 ∧ t.psc = pscFields s.buf 16 ∧ t.len = lenFields s.buf 32 ∧ t.dfh = dfhFields s.buf 48 ∧
      t.pay.payloadOff.toNat = 16 ∧ t.pay.payloadLen.toNat + 16 = s.inp.bufLen.toNat ∧
      (t.dfh.syncBit = 1 → t.utc = ⟨0, 0⟩) ∧
      (t.dfh.syncBit = 0 → t.utc.utcKind = 1 ∧
        t.utc.utcVal.toInt = elapsedUs s.cfg.usecRounding t.dfh.coarse t.dfh.fine) ∧
      (s.cfg.checkLength = false ∨ s.inp.bufLen.toNat - 6 = t.len.pktLen.toNat → t.stat = .success 1 0x0BF) ∧
      (s.cfg.checkLength = true → s.inp.bufLen.toNat - 6 ≠ t.len.pktLen.toNat →
        t.stat = .failure 1 3 6 (8 * t.len.pktLen.toNat) (8 * (s.inp.bufLen.toNat - 6)) 0 0x03F) ∧
      t = { s with
        stat := t.stat, pid := t.pid, psc := t.psc, len := t.len, dfh := t.dfh, utc := t.utc,
        pktMissionId := t.pktMissionId, pay := t.pay }

/-- 44_packet_decoder R196, 42_time_resolver R152, R154, 43_data_field_header R183: without `t0`, a synchronized packet of a
known mission gets the service's answer with `ok = 1`, from one request, and an unsynchronized one gets the sentinel, with no
request; every group but BFX is valid, and nothing else changes. The port's bookkeeping is the model's own (logs 8 and 9). -/
def Obligations.DpktWithoutEpochCopiesTheAnswer : Prop :=
  ∀ s : State, 16 ≤ s.inp.bufLen.toNat → s.bufHolds 16 → s.inp.missionKnown = 1 → s.inp.missionId.held = true →
    s.inp.t0Valid = 0 → s.cfg.checkLength = false ∨ s.inp.bufLen.toNat - 6 = (lenFields s.buf 32).pktLen.toNat →
    ((dfhFields s.buf 48).syncBit = 0 →
      (s.ephAnswer ⟨s.inp.missionId.value, (dfhFields s.buf 48).coarse, (dfhFields s.buf 48).fine, 5⟩).ok = 1 →
      exec .dpkt s = .next { s with
        stat := .success 0 0x0FF
        pid := pidFields s.buf 0, psc := pscFields s.buf 16, len := lenFields s.buf 32, dfh := dfhFields s.buf 48
        pay := ⟨16, s.inp.bufLen - 16⟩, pktMissionId := s.inp.missionId.value
        utc := ⟨2, (s.ephAnswer
          ⟨s.inp.missionId.value, (dfhFields s.buf 48).coarse, (dfhFields s.buf 48).fine, 5⟩).cal⟩
        eph := ⟨s.eph.answers.tail,
          ⟨s.inp.missionId.value, (dfhFields s.buf 48).coarse, (dfhFields s.buf 48).fine, 5⟩ :: s.eph.requests⟩ }) ∧
    ((dfhFields s.buf 48).syncBit = 1 →
      exec .dpkt s = .next { s with
        stat := .success 0 0x0FF
        pid := pidFields s.buf 0, psc := pscFields s.buf 16, len := lenFields s.buf 32, dfh := dfhFields s.buf 48
        pay := ⟨16, s.inp.bufLen - 16⟩, pktMissionId := s.inp.missionId.value, utc := ⟨0, 0⟩ })

/-- 44_packet_decoder R202: without `t0`, a synchronized packet of a known mission whose conversion the service fails keeps
everything decoded valid but UTC and the packet; the length is not checked then, whatever `CHECK_LENGTH` is (R203). -/
def Obligations.DpktServiceFailureKeepsTheHeaders : Prop :=
  ∀ s : State, 16 ≤ s.inp.bufLen.toNat → s.bufHolds 16 → s.inp.missionKnown = 1 → s.inp.missionId.held = true →
    s.inp.t0Valid = 0 → (dfhFields s.buf 48).syncBit = 0 →
    (s.ephAnswer ⟨s.inp.missionId.value, (dfhFields s.buf 48).coarse, (dfhFields s.buf 48).fine, 5⟩).ok = 0 →
    exec .dpkt s = .next { s with
      stat := .failure 0 2 5 0 0 2 0x06F
      pid := pidFields s.buf 0, psc := pscFields s.buf 16, len := lenFields s.buf 32, dfh := dfhFields s.buf 48
      pay := ⟨16, s.inp.bufLen - 16⟩, pktMissionId := s.inp.missionId.value
      eph := ⟨s.eph.answers.tail,
        ⟨s.inp.missionId.value, (dfhFields s.buf 48).coarse, (dfhFields s.buf 48).fine, 5⟩ :: s.eph.requests⟩ }

/-- 44_packet_decoder R203: with `CHECK_LENGTH = 1` a packet that decodes but whose data field is not `PKT_LEN` octets ends
in `CONSISTENCY_ERROR`, everything decoded valid, the time included, and the packet not; one whose data field is `PKT_LEN`
octets succeeds, and with `CHECK_LENGTH = 0` every one does. -/
def Obligations.DpktLengthCheckIsOptional : Prop :=
  ∀ s : State, 16 ≤ s.inp.bufLen.toNat → s.bufHolds 16 → s.inp.missionKnown = 1 → s.inp.missionId.held = true →
    s.inp.t0Valid = 1 → s.inp.t0Us.held = true →
    ∃ t, exec .dpkt s = .next t ∧
      (s.cfg.checkLength = true → s.inp.bufLen.toNat - 6 ≠ t.len.pktLen.toNat →
        t.stat = .failure 0 3 6 (8 * t.len.pktLen.toNat) (8 * (s.inp.bufLen.toNat - 6)) 0 0x07F) ∧
      (s.cfg.checkLength = true → s.inp.bufLen.toNat - 6 = t.len.pktLen.toNat → t.stat = .success 0 0x0FF) ∧
      (s.cfg.checkLength = false → t.stat = .success 0 0x0FF) ∧
      t.pid = pidFields s.buf 0 ∧ t.psc = pscFields s.buf 16 ∧ t.len = lenFields s.buf 32 ∧ t.dfh = dfhFields s.buf 48 ∧
      t.pay.payloadOff.toNat = 16 ∧ t.pay.payloadLen.toNat + 16 = s.inp.bufLen.toNat ∧
      t.pktMissionId = s.inp.missionId.value ∧
      (t.dfh.syncBit = 1 → t.utc = ⟨0, 0⟩) ∧
      (t.dfh.syncBit = 0 → t.utc.utcKind = 1 ∧
        (t0InRange s.inp.t0Us.value.toInt →
          t.utc.utcVal.toInt = s.inp.t0Us.value.toInt + elapsedUs s.cfg.usecRounding t.dfh.coarse t.dfh.fine)) ∧
      t = { s with
        stat := t.stat, pid := t.pid, psc := t.psc, len := t.len, dfh := t.dfh, utc := t.utc,
        pktMissionId := t.pktMissionId, pay := t.pay }

/-- 44_packet_decoder R203: the length check is the last line that can fail. Turning it on changes nothing of a DPKT that
ends in an error without it, nor of one whose data field is `PKT_LEN` octets; it turns any other success, of a known mission
or not, with a linear, an ephemeris or a sentinel time, into `CONSISTENCY_ERROR` with the packet bit cleared, and every
register but `STATUS`, the error record and that bit as the success has it. -/
def Obligations.DpktLengthCheckComesLast : Prop :=
  ∀ (s t : State), s.cfg.checkLength = false → exec .dpkt s = .next t →
    (t.stat.errCode ≠ 0 ∨ s.inp.bufLen.toNat - 6 = t.len.pktLen.toNat →
      exec .dpkt { s with cfg := { s.cfg with checkLength := true } } =
        .next { t with cfg := { s.cfg with checkLength := true } }) ∧
    (t.stat.errCode = 0 → s.inp.bufLen.toNat - 6 ≠ t.len.pktLen.toNat →
      exec .dpkt { s with cfg := { s.cfg with checkLength := true } } =
        .next { t with
          cfg := { s.cfg with checkLength := true }
          stat := .failure (1 - s.inp.missionKnown) 3 6 (8 * t.len.pktLen.toNat) (8 * (s.inp.bufLen.toNat - 6)) 0
            (t.stat.valid &&& 0x17F) })

/-- 30_encoding R85, R97, 44_packet_decoder R196: for every value of every field, spares and payload included, DPKT on the
packet built from them returns exactly those fields. -/
def Obligations.DpktRecoversEveryEncodedPacket : Prop :=
  ∀ (version : BitVec 3) (ptype shf : BitVec 1) (apid : BitVec 11) (segFlag : BitVec 2) (seqCount : BitVec 14)
    (rawLen : BitVec 16) (spare0 : BitVec 1) (pusVer : BitVec 3) (spare1 : BitVec 4) (svcType svcSubtype destId : BitVec 8)
    (sync : BitVec 1) (coarse : BitVec 31) (fine : BitVec 16) (payload : List Byte) (s : State),
    s.bufStarts (encodePkt (encodeSph48 (encodePid16 version ptype shf apid) (encodePsc16 segFlag seqCount) rawLen)
      (encodeDfh80 spare0 pusVer spare1 svcType svcSubtype destId sync coarse fine) payload) →
    s.inp.bufLen.toNat = 16 + payload.length → s.inp.missionKnown = 1 → s.inp.missionId.held = true →
    s.inp.t0Valid = 1 → s.inp.t0Us.held = true → s.cfg.checkLength = false →
    ∃ t, exec .dpkt s = .next t ∧
      t.pid.version = version ∧ t.pid.ptype = ptype ∧ t.pid.shf = shf ∧ t.pid.apid = apid ∧
      t.pid.processId.toNat * 16 + t.pid.pktCat.toNat = apid.toNat ∧
      t.psc = ⟨segFlag, seqCount⟩ ∧
      t.len.rawLen = rawLen ∧ t.len.pktLen.toNat = rawLen.toNat + 1 ∧
      t.dfh = ⟨pusVer, svcType, svcSubtype, destId, sync, 1 - sync, coarse, fine⟩ ∧
      t.pay.payloadOff.toNat = 16 ∧ t.pay.payloadLen.toNat = payload.length ∧
      t.stat = .success 0 0x0FF

/-! ## Rules about every command -/

/-- 20_memory R63: no command writes `BUF` or an input register, and running a command again with the same ephemeris answers
gives the same status and outputs. -/
def Obligations.CommandsLeaveTheBufferAndRepeat : Prop :=
  ∀ (i : Instr) (s t : State), exec i s = .next t →
    t.inp = s.inp ∧ (∀ a, Memory.read t.buf a = Memory.read s.buf a) ∧ t.buf = s.buf ∧ t.cfg = s.cfg ∧ t.host = s.host ∧
      t.rdata = s.rdata ∧ ∃ u, exec i { t with eph := s.eph } = .next u ∧ SameReads t u

/-- 00_scope R13, 10_state R40, 44_packet_decoder R206: what a command does depends on the inputs alone: two states that
differ in outputs, status, host moves or the last answer, and in nothing else, run it to states a host cannot tell apart. -/
def Obligations.CommandsDependOnInputsAlone : Prop :=
  ∀ (i : Instr) (s s' : State), SameInputs s s' →
    (∀ t, exec i s = .next t → ∃ t', exec i s' = .next t' ∧ SameReads t t' ∧ SameInputs t t') ∧
      ∀ r, exec i s = .refused r → exec i s' = .refused r

/-- 70_reset_and_hazards R265, R273: a command whose inputs hold values completes. As R273 asks, the assumption is said: the
ephemeris service always answers (log 8). -/
def Obligations.ReadyCommandsComplete : Prop :=
  ∀ (i : Instr) (s : State), CommandReady i s → ∃ t, exec i s = .next t

/-- 60_exceptions R232, 70_reset_and_hazards R265: a command never faults; it is refused only where something R265 lists for
it is missing, and the refusal names a register, or a byte of `BUF`, that holds no value. -/
def Obligations.CommandsStopOnlyForMissingValues : Prop :=
  ∀ (i : Instr) (s : State),
    (∀ f, exec i s ≠ .fault f) ∧
      ∀ r, exec i s = .refused r →
        ¬ CommandReady i s ∧
          ((∃ n, r = .noValueRegister n ∧ s.hostRead n = .refused (.noValueRegister n)) ∨
            ∃ a, r = .noValueByte a ∧ Memory.read s.buf a = none)

/-- 10_state R41, R33, R35, 60_exceptions R228: after every command DONE is set, ERR tells whether there is an error code,
and the warning is set exactly by DPKT for an unknown mission. -/
def Obligations.StatusTellsTheOutcome : Prop :=
  ∀ (i : Instr) (s t : State), exec i s = .next t →
    t.stat.status.getLsbD 0 = true ∧
      (t.stat.status.getLsbD 1 = true ↔ t.stat.errCode ≠ 0) ∧
      (t.stat.status.getLsbD 2 = true ↔ i = .dpkt ∧ s.inp.missionKnown = 0)

/-- 60_exceptions R225, R234: which command records which error, and what is valid then. That every reserved-code term,
also an ill-formed one with a code below 0x08, records code 4 is log 21. -/
def Obligations.EachErrorHasItsCommands : Prop :=
  ∀ (i : Instr) (s t : State), exec i s = .next t →
    (t.stat.errCode = 1 → i ∈ [.bfx, .dpid, .dpsc, .dsph, .ddfh, .dpkt] ∧ t.stat.valid = 0) ∧
      (t.stat.errCode = 2 → s.inp.t0Valid = 0 ∧
        ((i = .tres ∧ t.stat.valid = 0) ∨ (i = .ddfh ∧ t.stat.valid = 0x008) ∨ (i = .dpkt ∧ t.stat.valid = 0x06F))) ∧
      (t.stat.errCode = 3 → i = .dpkt ∧ s.cfg.checkLength = true ∧
        t.stat.valid = if s.inp.missionKnown = 1 then 0x07F else 0x03F) ∧
      (t.stat.errCode = 4 ↔ ∃ code, i = .reserved code) ∧
      (t.stat.errCode = 4 → t.stat.valid = 0) ∧
      (t.stat.errCode = 5 → i = .bfx ∧ t.stat.valid = 0) ∧
      (i = .dpkt → t.stat.errCause ≠ 1)

/-- 10_state R42 to R48, the columns "written by": each output group is changed only by the commands that write it. -/
def Obligations.OutputsChangeOnlyByTheirCommands : Prop :=
  ∀ (i : Instr) (s t : State), exec i s = .next t →
    (i ∉ [.dpid, .dsph, .dpkt] → t.pid = s.pid ∧ t.isValid .pid = false) ∧
      (i ∉ [.dpsc, .dsph, .dpkt] → t.psc = s.psc ∧ t.isValid .psc = false) ∧
      (i ∉ [.dsph, .dpkt] → t.len = s.len ∧ t.isValid .len = false) ∧
      (i ∉ [.ddfh, .dpkt] → t.dfh = s.dfh ∧ t.isValid .dfh = false) ∧
      (i ∉ [.tres, .ddfh, .dpkt] → t.utc = s.utc ∧ t.isValid .utc = false) ∧
      (i ≠ .dpkt → t.pktMissionId = s.pktMissionId ∧ t.isValid .mid = false) ∧
      (i ≠ .dpkt → t.pay = s.pay ∧ t.isValid .pay = false ∧ t.isValid .pkt = false) ∧
      (i ≠ .bfx → t.res = s.res ∧ t.isValid .bfx = false)

/-- 42_time_resolver R160, R152, 44_packet_decoder R206: a command makes at most one request, and only TRES, DDFH or DPKT
without `t0` and with a known mission; the request carries the host's mission and the constant 5. -/
def Obligations.AtMostOneEphemerisRequest : Prop :=
  ∀ (i : Instr) (s t : State), exec i s = .next t →
    t.eph = s.eph ∨
      (i ∈ [.tres, .ddfh, .dpkt] ∧ s.inp.t0Valid = 0 ∧ s.inp.missionKnown = 1 ∧
        ∃ r, t.eph = ⟨s.eph.answers.tail, r :: s.eph.requests⟩ ∧ r.mission = s.inp.missionId.value ∧ r.digits = 5 ∧
          (i ≠ .tres → r.coarse = t.dfh.coarse ∧ r.fine = t.dfh.fine ∧ t.dfh.syncBit = 0))

/-- 10_state R39 and its table: the packet bit means everything decoded without error. -/
def Obligations.PacketBitMeansAWholePacket : Prop :=
  ∀ (i : Instr) (s t : State), exec i s = .next t → t.isValid .pkt = true →
    i = .dpkt ∧ t.stat.errCode = 0 ∧
      t.isValid .pid = true ∧ t.isValid .psc = true ∧ t.isValid .len = true ∧ t.isValid .dfh = true ∧
      t.isValid .utc = true ∧ t.isValid .pay = true ∧ (t.isValid .mid = true ↔ s.inp.missionKnown = 1)

/-! ## The invariant -/

/-- 70_reset_and_hazards R260: the invariant holds after reset. -/
def Obligations.InvariantHoldsAtReset : Prop := State.reset.Inv

/-- 10_state R26 to R48, 70_reset_and_hazards R275, 00_scope R6: every step, command or host move, keeps the invariant. Its
clauses that `T0_US` is legal beside `T0_VALID = 1`, that a known mission has an identifier and that `WL_CNT` fits the least
width rest on how the model reads R275 and R34 at the host's writes (logs 12, 13 and 15). -/
def Obligations.EveryStepKeepsTheInvariant : Prop :=
  ∀ s t : State, s.Inv → step s = .next t → t.Inv

/-- 00_scope R6: no step changes the parameters. -/
def Obligations.ParametersNeverChange : Prop :=
  ∀ s t : State, step s = .next t → t.cfg = s.cfg

/-! ## The calendar -/

/-- 42_time_resolver R165: `days_from_civil` undoes `civil_from_days`, on every day before and after 1970. -/
def Obligations.CalendarConversionsAgree : Prop :=
  ∀ z : Int, daysFromCivil (civilFromDays z) = z ∧ 1 ≤ (civilFromDays z).month ∧ (civilFromDays z).month ≤ 12 ∧
    1 ≤ (civilFromDays z).day ∧ (civilFromDays z).day ≤ 31

/-- 10_state R46, 42_time_resolver R158, R164, R166: the kinds render with five, six and five fraction digits, between the
point and a trailing Z, and a linear value has a text exactly when it lies in the years 0001 to 9999. The calendar is log 17;
that a value outside those years has no text is log 22. -/
def Obligations.UtcTextsHaveTheirForm : Prop :=
  iso 0 0 = some ['1', '9', '7', '0', '-', '0', '1', '-', '0', '1', 'T', '0', '0', ':', '0', '0', ':', '0', '0', '.', '0', '0',
      '0', '0', '0', 'Z'] ∧
    (∀ (v : Int) (text : List Char), iso 1 v = some text →
      text.length = 27 ∧ text[19]? = some '.' ∧ text.getLast? = some 'Z' ∧
        ∀ i, 20 ≤ i → i < 26 → ∃ d, d < 10 ∧ text[i]? = some (Char.ofNat (48 + d))) ∧
    (∀ (v : Int) (text : List Char), iso 2 v = some text →
      text.length = 26 ∧ text[19]? = some '.' ∧ text.getLast? = some 'Z' ∧
        ∀ i, 20 ≤ i → i < 25 → ∃ d, d < 10 ∧ text[i]? = some (Char.ofNat (48 + d))) ∧
    ∀ v : Int, (iso 1 v).isSome = true ↔ t0InRange v
end

