-- ==== Sys2Proof/Laws/Bits.lean ====
section
/-! SUPPORT. The extraction primitive: every stream bit is a bit, every field fits its width, and what the result file and
the width scan hold. -/

namespace Sys2Proof.Machine

theorem sbit_lt_two (m : Memory) (k : Nat) : sbit m k < 2 := Nat.mod_lt _ (by decide)

@[simp] theorem getbits_zero (m : Memory) (p : Nat) : getbits m p 0 = 0 := rfl

theorem getbits_succ (m : Memory) (p w : Nat) : getbits m p (w + 1) = getbits m p w * 2 + sbit m (p + w) := rfl

/-- A field of `w` bits is below `2 ^ w` (00_scope R15). -/
theorem getbits_lt (m : Memory) (p w : Nat) : getbits m p w < 2 ^ w := by
  induction w with
  | zero => simp
  | succ w ih =>
    have := sbit_lt_two m (p + w)
    rw [getbits_succ, Nat.pow_succ]
    omega

@[simp] theorem fields_length (m : Memory) (p : Nat) (ws : List Nat) : (fields m p ws).length = ws.length := by
  induction ws generalizing p with
  | nil => rfl
  | cons w ws ih => simp [fields, ih]

/-- Every field of a list is below two to its width. -/
theorem fields_getD_lt (m : Memory) (p : Nat) (ws : List Nat) (i : Nat) :
    (fields m p ws).getD i 0 < 2 ^ ws.getD i 0 := by
  induction ws generalizing p i with
  | nil => simp [fields]
  | cons w ws ih =>
    cases i with
    | zero => simpa [fields] using getbits_lt m p w
    | succ i => simpa [fields] using ih (p + w) i

@[simp] theorem writeResults_nil (file : Vector Nat 16) (i : Nat) : writeResults file i [] = file := rfl

/-- An entry of the result file after the results are written from entry `i` on. -/
theorem writeResults_toList_getD (file : Vector Nat 16) (i j : Nat) (vs : List Nat) (hj : j < 16) :
    (writeResults file i vs).toList.getD j 0 =
      if i ≤ j ∧ j < i + vs.length then vs.getD (j - i) 0 else file.toList.getD j 0 := by
  induction vs generalizing file i with
  | nil => simp only [writeResults_nil, List.length_nil]; rw [if_neg (by omega)]
  | cons v vs ih =>
    rw [writeResults, ih]
    by_cases h : j = i
    · subst h
      rw [if_neg (by omega), if_pos (by simp)]
      simp [Vector.toList_setIfInBounds, hj]
    · by_cases h2 : i ≤ j ∧ j < i + (v :: vs).length
      · simp only [List.length_cons] at h2
        rw [if_pos (by omega), if_pos (by simp only [List.length_cons]; omega)]
        obtain ⟨d, hd⟩ : ∃ d, j - i = d + 1 := ⟨j - i - 1, by omega⟩
        rw [hd, List.getD_cons_succ]
        congr 1
        omega
      · simp only [List.length_cons] at h2
        rw [if_neg (by omega), if_neg (by simp only [List.length_cons]; omega)]
        simp [Vector.toList_setIfInBounds, Ne.symm h]

/-- What the scan of the width list says of the entries it read. -/
theorem scanWidths_good (fieldMax i : Nat) (rs : List (InputReg 8)) (ws : List Nat)
    (h : scanWidths fieldMax i rs = .good ws) :
    ws = rs.map (fun r => r.value.toNat) ∧ ∀ r ∈ rs, r.held = true ∧ r.value ≠ 0 ∧ r.value.toNat ≤ fieldMax := by
  induction rs generalizing i ws with
  | nil => simp [scanWidths] at h; simp [h]
  | cons r rs ih =>
    simp only [scanWidths] at h
    split at h
    · simp at h
    · rename_i h1
      split at h
      · simp at h
      · rename_i h2
        split at h
        · rename_i vs hvs
          obtain ⟨hv, hall⟩ := ih _ _ hvs
          simp only [WidthScan.good.injEq] at h
          subst h
          refine ⟨by simp [hv], ?_⟩
          simp only [List.mem_cons, forall_eq_or_imp]
          refine ⟨⟨by simpa using h1, ?_⟩, hall⟩
          simpa [not_or] using h2
        · simp at h
        · simp at h

/-- A width list that is all written and all legal is read whole. -/
theorem scanWidths_of_legal (fieldMax i : Nat) (rs : List (InputReg 8))
    (h : ∀ r ∈ rs, r.held = true ∧ r.value ≠ 0 ∧ r.value.toNat ≤ fieldMax) :
    scanWidths fieldMax i rs = .good (rs.map fun r => r.value.toNat) := by
  induction rs generalizing i with
  | nil => rfl
  | cons r rs ih =>
    simp only [List.mem_cons, forall_eq_or_imp] at h
    obtain ⟨⟨hh, hz, hle⟩, hall⟩ := h
    simp only [scanWidths, hh, hz, Nat.not_lt.mpr hle, ih (i + 1) hall, List.map_cons]
    simp

/-- A bad entry the scan reports stands in the list, is written, and is no legal width. -/
theorem scanWidths_bad (fieldMax i j : Nat) (rs : List (InputReg 8)) (h : scanWidths fieldMax i rs = .bad j) :
    ∃ k r, j = i + k ∧ rs[k]? = some r ∧ r.held = true ∧ (r.value = 0 ∨ fieldMax < r.value.toNat) := by
  induction rs generalizing i with
  | nil => simp [scanWidths] at h
  | cons r rs ih =>
    simp only [scanWidths] at h
    split at h
    · simp at h
    · split at h
      · rename_i h1 h2
        simp only [WidthScan.bad.injEq] at h
        exact ⟨0, r, h.symm, by simp, by simpa using h1, h2⟩
      · split at h
        · simp at h
        · rename_i hb
          simp only [WidthScan.bad.injEq] at h
          subst h
          obtain ⟨k, r', hk, hr, hrest⟩ := ih _ hb
          exact ⟨k + 1, r', by omega, by simpa using hr, hrest⟩
        · simp at h

/-- An entry the scan reports as holding no value stands in the list and is not written. -/
theorem scanWidths_noValue (fieldMax i j : Nat) (rs : List (InputReg 8)) (h : scanWidths fieldMax i rs = .noValue j) :
    ∃ k r, j = i + k ∧ rs[k]? = some r ∧ r.held = false := by
  induction rs generalizing i with
  | nil => simp [scanWidths] at h
  | cons r rs ih =>
    simp only [scanWidths] at h
    split at h
    · rename_i h1
      simp only [WidthScan.noValue.injEq] at h
      exact ⟨0, r, h.symm, by simp, h1⟩
    · split at h
      · simp at h
      · split at h
        · simp at h
        · simp at h
        · rename_i hb
          simp only [WidthScan.noValue.injEq] at h
          subst h
          obtain ⟨k, r', hk, hr, hf⟩ := ih _ hb
          exact ⟨k + 1, r', by omega, by simpa using hr, hf⟩

end Sys2Proof.Machine
end

