-- ==== Sys2Proof/Laws/Memory.lean ====
section
/-! SUPPORT. The buffer: a read after a write, the canonical form that every memory operation keeps, and what the launch
check of a command says. -/

namespace Sys2Proof.Machine

@[simp] theorem Memory.read_nil (a : Nat) : Memory.read [] a = none := rfl

theorem Memory.read_cons (b : Nat) (v : Byte) (m : Memory) (a : Nat) :
    Memory.read ((b, v) :: m) a = if b = a then some v else Memory.read m a := rfl

/-- The head of a canonical memory lies below every other cell. -/
theorem Memory.wf_cons_iff (a : Nat) (v : Byte) (m : Memory) :
    Memory.wf ((a, v) :: m) = true ↔ Memory.wf m = true ∧ ∀ c ∈ m, a < c.1 := by
  induction m generalizing a v with
  | nil => simp [Memory.wf]
  | cons c m ih =>
    obtain ⟨b, u⟩ := c
    simp only [Memory.wf, Bool.and_eq_true, decide_eq_true_eq, List.mem_cons, forall_eq_or_imp]
    rw [ih]
    constructor
    · rintro ⟨hab, hm, hb⟩
      exact ⟨⟨hm, hb⟩, hab, fun c hc => Nat.lt_trans hab (hb c hc)⟩
    · rintro ⟨⟨hm, hb⟩, hab, -⟩
      exact ⟨hab, hm, hb⟩

/-- A cell that is not listed holds no value. -/
theorem Memory.read_eq_none_of_forall_ne (m : Memory) (a : Nat) (h : ∀ c ∈ m, c.1 ≠ a) : Memory.read m a = none := by
  induction m with
  | nil => rfl
  | cons c m ih =>
    obtain ⟨b, u⟩ := c
    simp only [List.mem_cons, forall_eq_or_imp] at h
    rw [Memory.read_cons, if_neg h.1, ih h.2]

/-- The offsets listed after a write are those listed before and the one written. -/
theorem Memory.mem_write (m : Memory) (a : Nat) (v : Byte) (c : Host.Cell) (h : c ∈ Memory.write m a v) :
    c = (a, v) ∨ c ∈ m := by
  induction m with
  | nil => simpa [Memory.write] using h
  | cons d m ih =>
    obtain ⟨b, u⟩ := d
    simp only [Memory.write] at h
    split at h
    · simpa using h
    · split at h
      · rcases List.mem_cons.mp h with h | h
        · exact .inl h
        · exact .inr (List.mem_cons_of_mem _ h)
      · rcases List.mem_cons.mp h with h | h
        · exact .inr (by simp [h])
        · exact (ih h).imp_right (List.mem_cons_of_mem _)

/-- A write keeps the canonical form. -/
theorem Memory.write_wf (m : Memory) (a : Nat) (v : Byte) (h : Memory.wf m = true) :
    Memory.wf (Memory.write m a v) = true := by
  induction m with
  | nil => rfl
  | cons d m ih =>
    obtain ⟨b, u⟩ := d
    rw [Memory.wf_cons_iff] at h
    simp only [Memory.write]
    split
    · rename_i hab
      rw [Memory.wf_cons_iff, Memory.wf_cons_iff]
      refine ⟨h, fun c hc => ?_⟩
      rcases List.mem_cons.mp hc with rfl | hc
      · exact hab
      · exact Nat.lt_trans hab (h.2 c hc)
    · split
      · rename_i hab
        subst hab
        rw [Memory.wf_cons_iff]
        exact h
      · rename_i h1 h2
        rw [Memory.wf_cons_iff]
        refine ⟨ih h.1, fun c hc => ?_⟩
        rcases Memory.mem_write m a v c hc with rfl | hc
        · show b < a
          omega
        · exact h.2 c hc

/-- A read after a write: the byte written at its offset, every other offset as before. -/
theorem Memory.read_write (m : Memory) (a : Nat) (v : Byte) (a' : Nat) :
    Memory.read (Memory.write m a v) a' = if a' = a then some v else Memory.read m a' := by
  induction m with
  | nil =>
    rw [Memory.write, Memory.read_cons]
    by_cases h : a' = a
    · rw [if_pos h, if_pos h.symm]
    · rw [if_neg h, if_neg (Ne.symm h)]
  | cons c m ih =>
    obtain ⟨x, y⟩ := c
    simp only [Memory.write]
    split
    · rw [Memory.read_cons]
      by_cases h : a' = a
      · rw [if_pos h, if_pos h.symm]
      · rw [if_neg h, if_neg (Ne.symm h)]
    · split
      · rename_i h'
        subst h'
        rw [Memory.read_cons, Memory.read_cons]
        by_cases h : a' = a
        · rw [if_pos h, if_pos h.symm]
        · rw [if_neg h, if_neg (Ne.symm h), if_neg (Ne.symm h)]
      · rw [Memory.read_cons, Memory.read_cons, ih]
        by_cases h : a' = a
        · rw [if_pos h, if_pos h, if_neg (by omega)]
        · rw [if_neg h, if_neg h]

/-- The memory after reset is canonical. -/
theorem State.reset_buf_wf : Memory.wf State.reset.buf = true := rfl

theorem Memory.mem_ofBytesFrom (bs : List Byte) (a : Nat) (c : Host.Cell) (h : c ∈ Memory.ofBytesFrom a bs) :
    a ≤ c.1 ∧ c.1 < a + bs.length := by
  induction bs generalizing a with
  | nil => simp [Memory.ofBytesFrom] at h
  | cons b bs ih =>
    simp only [Memory.ofBytesFrom, List.mem_cons] at h
    rcases h with rfl | h
    · simp
    · have := ih (a + 1) h
      simp only [List.length_cons]
      omega

/-- Loading bytes gives a canonical memory. -/
theorem Memory.ofBytesFrom_wf (bs : List Byte) (a : Nat) : Memory.wf (Memory.ofBytesFrom a bs) = true := by
  induction bs generalizing a with
  | nil => rfl
  | cons b bs ih =>
    rw [Memory.ofBytesFrom, Memory.wf_cons_iff]
    exact ⟨ih (a + 1), fun c hc => (Memory.mem_ofBytesFrom bs (a + 1) c hc).1⟩

/-- Byte `i` of the list stands at offset `a + i`. -/
theorem Memory.read_ofBytesFrom (bs : List Byte) (a i : Nat) : Memory.read (Memory.ofBytesFrom a bs) (a + i) = bs[i]? := by
  induction bs generalizing a i with
  | nil => simp [Memory.ofBytesFrom]
  | cons b bs ih =>
    rw [Memory.ofBytesFrom, Memory.read_cons]
    cases i with
    | zero => simp
    | succ i =>
      rw [if_neg (by omega), List.getElem?_cons_succ, ← ih (a + 1) i]
      congr 1
      omega

/-- The launch check finds no missing byte exactly when all the bytes hold a value. -/
theorem Memory.firstMissing_eq_none_iff (m : Memory) (n : Nat) :
    Memory.firstMissing m n = none ↔ ∀ a < n, (Memory.read m a).isSome = true := by
  induction n with
  | zero => simp [Memory.firstMissing]
  | succ n ih =>
    simp only [Memory.firstMissing]
    split
    · rename_i a h
      simp only [reduceCtorEq, false_iff]
      intro hall
      have := ih.mpr fun b hb => hall b (by omega)
      simp [h] at this
    · rename_i h
      have h' := ih.mp h
      cases hr : Memory.read m n with
      | none =>
        simp only [Option.isNone_none, ↓reduceIte, reduceCtorEq, false_iff]
        intro hall
        simpa [hr] using hall n (by omega)
      | some v =>
        simp only [Option.isNone_some, Bool.false_eq_true, ↓reduceIte, true_iff]
        intro a ha
        rcases Nat.lt_succ_iff_lt_or_eq.mp ha with ha | rfl
        · exact h' a ha
        · simp [hr]

/-- A byte the check reports is below the limit and holds no value. -/
theorem Memory.firstMissing_eq_some (m : Memory) (n a : Nat) (h : Memory.firstMissing m n = some a) :
    a < n ∧ Memory.read m a = none := by
  induction n with
  | zero => simp [Memory.firstMissing] at h
  | succ n ih =>
    simp only [Memory.firstMissing] at h
    split at h
    · rename_i b hb
      cases h
      have := ih hb
      exact ⟨by omega, this.2⟩
    · split at h
      · cases h
        rename_i hn
        exact ⟨by omega, by simpa using hn⟩
      · cases h

theorem Memory.byteAt_of_read (m : Memory) (a : Nat) (b : Byte) (h : Memory.read m a = some b) : Memory.byteAt m a = b := by
  rw [Memory.byteAt, h, Option.getD_some]

end Sys2Proof.Machine
end

