-- ==== Sys2Proof/Laws/State.lean ====
section
/-! SUPPORT. One lemma per field of State for each operation that updates a state: what the field is afterwards. All hold by
rfl and are in the simp set, so that no proof unfolds a record update. -/

namespace Sys2Proof.Machine

/-! ### beginCmd -/

@[simp] theorem State.beginCmd_inp (s : State) : (s.beginCmd).inp = s.inp := rfl
@[simp] theorem State.beginCmd_buf (s : State) : (s.beginCmd).buf = s.buf := rfl
@[simp] theorem State.beginCmd_stat (s : State) : (s.beginCmd).stat = .reset := rfl
@[simp] theorem State.beginCmd_pid (s : State) : (s.beginCmd).pid = s.pid := rfl
@[simp] theorem State.beginCmd_psc (s : State) : (s.beginCmd).psc = s.psc := rfl
@[simp] theorem State.beginCmd_len (s : State) : (s.beginCmd).len = s.len := rfl
@[simp] theorem State.beginCmd_dfh (s : State) : (s.beginCmd).dfh = s.dfh := rfl
@[simp] theorem State.beginCmd_utc (s : State) : (s.beginCmd).utc = s.utc := rfl
@[simp] theorem State.beginCmd_pktMissionId (s : State) : (s.beginCmd).pktMissionId = s.pktMissionId := rfl
@[simp] theorem State.beginCmd_pay (s : State) : (s.beginCmd).pay = s.pay := rfl
@[simp] theorem State.beginCmd_res (s : State) : (s.beginCmd).res = s.res := rfl
@[simp] theorem State.beginCmd_cfg (s : State) : (s.beginCmd).cfg = s.cfg := rfl
@[simp] theorem State.beginCmd_eph (s : State) : (s.beginCmd).eph = s.eph := rfl
@[simp] theorem State.beginCmd_host (s : State) : (s.beginCmd).host = s.host := rfl
@[simp] theorem State.beginCmd_rdata (s : State) : (s.beginCmd).rdata = s.rdata := rfl

/-! ### setValid -/

@[simp] theorem State.setValid_inp (g : Group) (b : BitVec 1) (s : State) : (s.setValid g b).inp = s.inp := rfl
@[simp] theorem State.setValid_buf (g : Group) (b : BitVec 1) (s : State) : (s.setValid g b).buf = s.buf := rfl
@[simp] theorem State.setValid_stat (g : Group) (b : BitVec 1) (s : State) :
    (s.setValid g b).stat = { s.stat with valid := writeBit s.stat.valid g.bit b } := rfl
@[simp] theorem State.setValid_pid (g : Group) (b : BitVec 1) (s : State) : (s.setValid g b).pid = s.pid := rfl
@[simp] theorem State.setValid_psc (g : Group) (b : BitVec 1) (s : State) : (s.setValid g b).psc = s.psc := rfl
@[simp] theorem State.setValid_len (g : Group) (b : BitVec 1) (s : State) : (s.setValid g b).len = s.len := rfl
@[simp] theorem State.setValid_dfh (g : Group) (b : BitVec 1) (s : State) : (s.setValid g b).dfh = s.dfh := rfl
@[simp] theorem State.setValid_utc (g : Group) (b : BitVec 1) (s : State) : (s.setValid g b).utc = s.utc := rfl
@[simp] theorem State.setValid_pktMissionId (g : Group) (b : BitVec 1) (s : State) :
    (s.setValid g b).pktMissionId = s.pktMissionId := rfl
@[simp] theorem State.setValid_pay (g : Group) (b : BitVec 1) (s : State) : (s.setValid g b).pay = s.pay := rfl
@[simp] theorem State.setValid_res (g : Group) (b : BitVec 1) (s : State) : (s.setValid g b).res = s.res := rfl
@[simp] theorem State.setValid_cfg (g : Group) (b : BitVec 1) (s : State) : (s.setValid g b).cfg = s.cfg := rfl
@[simp] theorem State.setValid_eph (g : Group) (b : BitVec 1) (s : State) : (s.setValid g b).eph = s.eph := rfl
@[simp] theorem State.setValid_host (g : Group) (b : BitVec 1) (s : State) : (s.setValid g b).host = s.host := rfl
@[simp] theorem State.setValid_rdata (g : Group) (b : BitVec 1) (s : State) : (s.setValid g b).rdata = s.rdata := rfl

/-! ### setDone -/

@[simp] theorem State.setDone_inp (s : State) : (s.setDone).inp = s.inp := rfl
@[simp] theorem State.setDone_buf (s : State) : (s.setDone).buf = s.buf := rfl
@[simp] theorem State.setDone_stat (s : State) :
    (s.setDone).stat = { s.stat with status := writeBit s.stat.status 0 1 } := rfl
@[simp] theorem State.setDone_pid (s : State) : (s.setDone).pid = s.pid := rfl
@[simp] theorem State.setDone_psc (s : State) : (s.setDone).psc = s.psc := rfl
@[simp] theorem State.setDone_len (s : State) : (s.setDone).len = s.len := rfl
@[simp] theorem State.setDone_dfh (s : State) : (s.setDone).dfh = s.dfh := rfl
@[simp] theorem State.setDone_utc (s : State) : (s.setDone).utc = s.utc := rfl
@[simp] theorem State.setDone_pktMissionId (s : State) : (s.setDone).pktMissionId = s.pktMissionId := rfl
@[simp] theorem State.setDone_pay (s : State) : (s.setDone).pay = s.pay := rfl
@[simp] theorem State.setDone_res (s : State) : (s.setDone).res = s.res := rfl
@[simp] theorem State.setDone_cfg (s : State) : (s.setDone).cfg = s.cfg := rfl
@[simp] theorem State.setDone_eph (s : State) : (s.setDone).eph = s.eph := rfl
@[simp] theorem State.setDone_host (s : State) : (s.setDone).host = s.host := rfl
@[simp] theorem State.setDone_rdata (s : State) : (s.setDone).rdata = s.rdata := rfl

/-! ### setErr -/

@[simp] theorem State.setErr_inp (s : State) : (s.setErr).inp = s.inp := rfl
@[simp] theorem State.setErr_buf (s : State) : (s.setErr).buf = s.buf := rfl
@[simp] theorem State.setErr_stat (s : State) : (s.setErr).stat = { s.stat with status := writeBit s.stat.status 1 1 } := rfl
@[simp] theorem State.setErr_pid (s : State) : (s.setErr).pid = s.pid := rfl
@[simp] theorem State.setErr_psc (s : State) : (s.setErr).psc = s.psc := rfl
@[simp] theorem State.setErr_len (s : State) : (s.setErr).len = s.len := rfl
@[simp] theorem State.setErr_dfh (s : State) : (s.setErr).dfh = s.dfh := rfl
@[simp] theorem State.setErr_utc (s : State) : (s.setErr).utc = s.utc := rfl
@[simp] theorem State.setErr_pktMissionId (s : State) : (s.setErr).pktMissionId = s.pktMissionId := rfl
@[simp] theorem State.setErr_pay (s : State) : (s.setErr).pay = s.pay := rfl
@[simp] theorem State.setErr_res (s : State) : (s.setErr).res = s.res := rfl
@[simp] theorem State.setErr_cfg (s : State) : (s.setErr).cfg = s.cfg := rfl
@[simp] theorem State.setErr_eph (s : State) : (s.setErr).eph = s.eph := rfl
@[simp] theorem State.setErr_host (s : State) : (s.setErr).host = s.host := rfl
@[simp] theorem State.setErr_rdata (s : State) : (s.setErr).rdata = s.rdata := rfl

/-! ### endCmd -/

@[simp] theorem State.endCmd_inp (s : State) : (s.endCmd).inp = s.inp := rfl
@[simp] theorem State.endCmd_buf (s : State) : (s.endCmd).buf = s.buf := rfl
@[simp] theorem State.endCmd_stat (s : State) : (s.endCmd).stat = { s.stat with status := writeBit s.stat.status 0 1 } := rfl
@[simp] theorem State.endCmd_pid (s : State) : (s.endCmd).pid = s.pid := rfl
@[simp] theorem State.endCmd_psc (s : State) : (s.endCmd).psc = s.psc := rfl
@[simp] theorem State.endCmd_len (s : State) : (s.endCmd).len = s.len := rfl
@[simp] theorem State.endCmd_dfh (s : State) : (s.endCmd).dfh = s.dfh := rfl
@[simp] theorem State.endCmd_utc (s : State) : (s.endCmd).utc = s.utc := rfl
@[simp] theorem State.endCmd_pktMissionId (s : State) : (s.endCmd).pktMissionId = s.pktMissionId := rfl
@[simp] theorem State.endCmd_pay (s : State) : (s.endCmd).pay = s.pay := rfl
@[simp] theorem State.endCmd_res (s : State) : (s.endCmd).res = s.res := rfl
@[simp] theorem State.endCmd_cfg (s : State) : (s.endCmd).cfg = s.cfg := rfl
@[simp] theorem State.endCmd_eph (s : State) : (s.endCmd).eph = s.eph := rfl
@[simp] theorem State.endCmd_host (s : State) : (s.endCmd).host = s.host := rfl
@[simp] theorem State.endCmd_rdata (s : State) : (s.endCmd).rdata = s.rdata := rfl

/-! ### warnUnknownMission -/

@[simp] theorem State.warnUnknownMission_inp (s : State) : (s.warnUnknownMission).inp = s.inp := rfl
@[simp] theorem State.warnUnknownMission_buf (s : State) : (s.warnUnknownMission).buf = s.buf := rfl
@[simp] theorem State.warnUnknownMission_stat (s : State) :
    (s.warnUnknownMission).stat = { s.stat with status := writeBit s.stat.status 2 1 } := rfl
@[simp] theorem State.warnUnknownMission_pid (s : State) : (s.warnUnknownMission).pid = s.pid := rfl
@[simp] theorem State.warnUnknownMission_psc (s : State) : (s.warnUnknownMission).psc = s.psc := rfl
@[simp] theorem State.warnUnknownMission_len (s : State) : (s.warnUnknownMission).len = s.len := rfl
@[simp] theorem State.warnUnknownMission_dfh (s : State) : (s.warnUnknownMission).dfh = s.dfh := rfl
@[simp] theorem State.warnUnknownMission_utc (s : State) : (s.warnUnknownMission).utc = s.utc := rfl
@[simp] theorem State.warnUnknownMission_pktMissionId (s : State) :
    (s.warnUnknownMission).pktMissionId = s.pktMissionId := rfl
@[simp] theorem State.warnUnknownMission_pay (s : State) : (s.warnUnknownMission).pay = s.pay := rfl
@[simp] theorem State.warnUnknownMission_res (s : State) : (s.warnUnknownMission).res = s.res := rfl
@[simp] theorem State.warnUnknownMission_cfg (s : State) : (s.warnUnknownMission).cfg = s.cfg := rfl
@[simp] theorem State.warnUnknownMission_eph (s : State) : (s.warnUnknownMission).eph = s.eph := rfl
@[simp] theorem State.warnUnknownMission_host (s : State) : (s.warnUnknownMission).host = s.host := rfl
@[simp] theorem State.warnUnknownMission_rdata (s : State) : (s.warnUnknownMission).rdata = s.rdata := rfl

/-! ### raise -/

@[simp] theorem State.raise_inp (e : ErrKind) (u : ErrUnit) (r a : Nat) (k : ErrCause) (s : State) :
    (s.raise e u r a k).inp = s.inp := rfl
@[simp] theorem State.raise_buf (e : ErrKind) (u : ErrUnit) (r a : Nat) (k : ErrCause) (s : State) :
    (s.raise e u r a k).buf = s.buf := rfl
@[simp] theorem State.raise_stat (e : ErrKind) (u : ErrUnit) (r a : Nat) (k : ErrCause) (s : State) : (s.raise e u r a k).stat = {
      status := writeBit (writeBit s.stat.status 1 1) 0 1, errCode := e.code, errUnit := u.code, errReqBits := BitVec.ofNat 32 r,
      errAvailBits := BitVec.ofNat 32 a, errCause := k.code, valid := s.stat.valid } := rfl
@[simp] theorem State.raise_pid (e : ErrKind) (u : ErrUnit) (r a : Nat) (k : ErrCause) (s : State) :
    (s.raise e u r a k).pid = s.pid := rfl
@[simp] theorem State.raise_psc (e : ErrKind) (u : ErrUnit) (r a : Nat) (k : ErrCause) (s : State) :
    (s.raise e u r a k).psc = s.psc := rfl
@[simp] theorem State.raise_len (e : ErrKind) (u : ErrUnit) (r a : Nat) (k : ErrCause) (s : State) :
    (s.raise e u r a k).len = s.len := rfl
@[simp] theorem State.raise_dfh (e : ErrKind) (u : ErrUnit) (r a : Nat) (k : ErrCause) (s : State) :
    (s.raise e u r a k).dfh = s.dfh := rfl
@[simp] theorem State.raise_utc (e : ErrKind) (u : ErrUnit) (r a : Nat) (k : ErrCause) (s : State) :
    (s.raise e u r a k).utc = s.utc := rfl
@[simp] theorem State.raise_pktMissionId (e : ErrKind) (u : ErrUnit) (r a : Nat) (k : ErrCause) (s : State) :
    (s.raise e u r a k).pktMissionId = s.pktMissionId := rfl
@[simp] theorem State.raise_pay (e : ErrKind) (u : ErrUnit) (r a : Nat) (k : ErrCause) (s : State) :
    (s.raise e u r a k).pay = s.pay := rfl
@[simp] theorem State.raise_res (e : ErrKind) (u : ErrUnit) (r a : Nat) (k : ErrCause) (s : State) :
    (s.raise e u r a k).res = s.res := rfl
@[simp] theorem State.raise_cfg (e : ErrKind) (u : ErrUnit) (r a : Nat) (k : ErrCause) (s : State) :
    (s.raise e u r a k).cfg = s.cfg := rfl
@[simp] theorem State.raise_eph (e : ErrKind) (u : ErrUnit) (r a : Nat) (k : ErrCause) (s : State) :
    (s.raise e u r a k).eph = s.eph := rfl
@[simp] theorem State.raise_host (e : ErrKind) (u : ErrUnit) (r a : Nat) (k : ErrCause) (s : State) :
    (s.raise e u r a k).host = s.host := rfl
@[simp] theorem State.raise_rdata (e : ErrKind) (u : ErrUnit) (r a : Nat) (k : ErrCause) (s : State) :
    (s.raise e u r a k).rdata = s.rdata := rfl

/-! ### decodePid -/

@[simp] theorem State.decodePid_inp (p : Nat) (s : State) : (s.decodePid p).inp = s.inp := rfl
@[simp] theorem State.decodePid_buf (p : Nat) (s : State) : (s.decodePid p).buf = s.buf := rfl
@[simp] theorem State.decodePid_stat (p : Nat) (s : State) :
    (s.decodePid p).stat = { s.stat with valid := writeBit s.stat.valid 0 1 } := rfl
@[simp] theorem State.decodePid_pid (p : Nat) (s : State) : (s.decodePid p).pid = pidFields s.buf p := rfl
@[simp] theorem State.decodePid_psc (p : Nat) (s : State) : (s.decodePid p).psc = s.psc := rfl
@[simp] theorem State.decodePid_len (p : Nat) (s : State) : (s.decodePid p).len = s.len := rfl
@[simp] theorem State.decodePid_dfh (p : Nat) (s : State) : (s.decodePid p).dfh = s.dfh := rfl
@[simp] theorem State.decodePid_utc (p : Nat) (s : State) : (s.decodePid p).utc = s.utc := rfl
@[simp] theorem State.decodePid_pktMissionId (p : Nat) (s : State) : (s.decodePid p).pktMissionId = s.pktMissionId := rfl
@[simp] theorem State.decodePid_pay (p : Nat) (s : State) : (s.decodePid p).pay = s.pay := rfl
@[simp] theorem State.decodePid_res (p : Nat) (s : State) : (s.decodePid p).res = s.res := rfl
@[simp] theorem State.decodePid_cfg (p : Nat) (s : State) : (s.decodePid p).cfg = s.cfg := rfl
@[simp] theorem State.decodePid_eph (p : Nat) (s : State) : (s.decodePid p).eph = s.eph := rfl
@[simp] theorem State.decodePid_host (p : Nat) (s : State) : (s.decodePid p).host = s.host := rfl
@[simp] theorem State.decodePid_rdata (p : Nat) (s : State) : (s.decodePid p).rdata = s.rdata := rfl

/-! ### decodePsc -/

@[simp] theorem State.decodePsc_inp (p : Nat) (s : State) : (s.decodePsc p).inp = s.inp := rfl
@[simp] theorem State.decodePsc_buf (p : Nat) (s : State) : (s.decodePsc p).buf = s.buf := rfl
@[simp] theorem State.decodePsc_stat (p : Nat) (s : State) :
    (s.decodePsc p).stat = { s.stat with valid := writeBit s.stat.valid 1 1 } := rfl
@[simp] theorem State.decodePsc_pid (p : Nat) (s : State) : (s.decodePsc p).pid = s.pid := rfl
@[simp] theorem State.decodePsc_psc (p : Nat) (s : State) : (s.decodePsc p).psc = pscFields s.buf p := rfl
@[simp] theorem State.decodePsc_len (p : Nat) (s : State) : (s.decodePsc p).len = s.len := rfl
@[simp] theorem State.decodePsc_dfh (p : Nat) (s : State) : (s.decodePsc p).dfh = s.dfh := rfl
@[simp] theorem State.decodePsc_utc (p : Nat) (s : State) : (s.decodePsc p).utc = s.utc := rfl
@[simp] theorem State.decodePsc_pktMissionId (p : Nat) (s : State) : (s.decodePsc p).pktMissionId = s.pktMissionId := rfl
@[simp] theorem State.decodePsc_pay (p : Nat) (s : State) : (s.decodePsc p).pay = s.pay := rfl
@[simp] theorem State.decodePsc_res (p : Nat) (s : State) : (s.decodePsc p).res = s.res := rfl
@[simp] theorem State.decodePsc_cfg (p : Nat) (s : State) : (s.decodePsc p).cfg = s.cfg := rfl
@[simp] theorem State.decodePsc_eph (p : Nat) (s : State) : (s.decodePsc p).eph = s.eph := rfl
@[simp] theorem State.decodePsc_host (p : Nat) (s : State) : (s.decodePsc p).host = s.host := rfl
@[simp] theorem State.decodePsc_rdata (p : Nat) (s : State) : (s.decodePsc p).rdata = s.rdata := rfl

/-! ### decodeLen -/

@[simp] theorem State.decodeLen_inp (p : Nat) (s : State) : (s.decodeLen p).inp = s.inp := rfl
@[simp] theorem State.decodeLen_buf (p : Nat) (s : State) : (s.decodeLen p).buf = s.buf := rfl
@[simp] theorem State.decodeLen_stat (p : Nat) (s : State) :
    (s.decodeLen p).stat = { s.stat with valid := writeBit s.stat.valid 2 1 } := rfl
@[simp] theorem State.decodeLen_pid (p : Nat) (s : State) : (s.decodeLen p).pid = s.pid := rfl
@[simp] theorem State.decodeLen_psc (p : Nat) (s : State) : (s.decodeLen p).psc = s.psc := rfl
@[simp] theorem State.decodeLen_len (p : Nat) (s : State) : (s.decodeLen p).len = lenFields s.buf p := rfl
@[simp] theorem State.decodeLen_dfh (p : Nat) (s : State) : (s.decodeLen p).dfh = s.dfh := rfl
@[simp] theorem State.decodeLen_utc (p : Nat) (s : State) : (s.decodeLen p).utc = s.utc := rfl
@[simp] theorem State.decodeLen_pktMissionId (p : Nat) (s : State) : (s.decodeLen p).pktMissionId = s.pktMissionId := rfl
@[simp] theorem State.decodeLen_pay (p : Nat) (s : State) : (s.decodeLen p).pay = s.pay := rfl
@[simp] theorem State.decodeLen_res (p : Nat) (s : State) : (s.decodeLen p).res = s.res := rfl
@[simp] theorem State.decodeLen_cfg (p : Nat) (s : State) : (s.decodeLen p).cfg = s.cfg := rfl
@[simp] theorem State.decodeLen_eph (p : Nat) (s : State) : (s.decodeLen p).eph = s.eph := rfl
@[simp] theorem State.decodeLen_host (p : Nat) (s : State) : (s.decodeLen p).host = s.host := rfl
@[simp] theorem State.decodeLen_rdata (p : Nat) (s : State) : (s.decodeLen p).rdata = s.rdata := rfl

/-! ### decodeSph -/

@[simp] theorem State.decodeSph_inp (p : Nat) (s : State) : (s.decodeSph p).inp = s.inp := rfl
@[simp] theorem State.decodeSph_buf (p : Nat) (s : State) : (s.decodeSph p).buf = s.buf := rfl
@[simp] theorem State.decodeSph_stat (p : Nat) (s : State) : (s.decodeSph p).stat = {
      s.stat with valid := writeBit (writeBit (writeBit s.stat.valid 0 1) 1 1) 2 1 } := rfl
@[simp] theorem State.decodeSph_pid (p : Nat) (s : State) : (s.decodeSph p).pid = pidFields s.buf p := rfl
@[simp] theorem State.decodeSph_psc (p : Nat) (s : State) : (s.decodeSph p).psc = pscFields s.buf (p + 16) := rfl
@[simp] theorem State.decodeSph_len (p : Nat) (s : State) : (s.decodeSph p).len = lenFields s.buf (p + 32) := rfl
@[simp] theorem State.decodeSph_dfh (p : Nat) (s : State) : (s.decodeSph p).dfh = s.dfh := rfl
@[simp] theorem State.decodeSph_utc (p : Nat) (s : State) : (s.decodeSph p).utc = s.utc := rfl
@[simp] theorem State.decodeSph_pktMissionId (p : Nat) (s : State) : (s.decodeSph p).pktMissionId = s.pktMissionId := rfl
@[simp] theorem State.decodeSph_pay (p : Nat) (s : State) : (s.decodeSph p).pay = s.pay := rfl
@[simp] theorem State.decodeSph_res (p : Nat) (s : State) : (s.decodeSph p).res = s.res := rfl
@[simp] theorem State.decodeSph_cfg (p : Nat) (s : State) : (s.decodeSph p).cfg = s.cfg := rfl
@[simp] theorem State.decodeSph_eph (p : Nat) (s : State) : (s.decodeSph p).eph = s.eph := rfl
@[simp] theorem State.decodeSph_host (p : Nat) (s : State) : (s.decodeSph p).host = s.host := rfl
@[simp] theorem State.decodeSph_rdata (p : Nat) (s : State) : (s.decodeSph p).rdata = s.rdata := rfl

/-! ### decodeDfhFields -/

@[simp] theorem State.decodeDfhFields_inp (p : Nat) (s : State) : (s.decodeDfhFields p).inp = s.inp := rfl
@[simp] theorem State.decodeDfhFields_buf (p : Nat) (s : State) : (s.decodeDfhFields p).buf = s.buf := rfl
@[simp] theorem State.decodeDfhFields_stat (p : Nat) (s : State) :
    (s.decodeDfhFields p).stat = { s.stat with valid := writeBit s.stat.valid 3 1 } := rfl
@[simp] theorem State.decodeDfhFields_pid (p : Nat) (s : State) : (s.decodeDfhFields p).pid = s.pid := rfl
@[simp] theorem State.decodeDfhFields_psc (p : Nat) (s : State) : (s.decodeDfhFields p).psc = s.psc := rfl
@[simp] theorem State.decodeDfhFields_len (p : Nat) (s : State) : (s.decodeDfhFields p).len = s.len := rfl
@[simp] theorem State.decodeDfhFields_dfh (p : Nat) (s : State) : (s.decodeDfhFields p).dfh = dfhFields s.buf p := rfl
@[simp] theorem State.decodeDfhFields_utc (p : Nat) (s : State) : (s.decodeDfhFields p).utc = s.utc := rfl
@[simp] theorem State.decodeDfhFields_pktMissionId (p : Nat) (s : State) :
    (s.decodeDfhFields p).pktMissionId = s.pktMissionId := rfl
@[simp] theorem State.decodeDfhFields_pay (p : Nat) (s : State) : (s.decodeDfhFields p).pay = s.pay := rfl
@[simp] theorem State.decodeDfhFields_res (p : Nat) (s : State) : (s.decodeDfhFields p).res = s.res := rfl
@[simp] theorem State.decodeDfhFields_cfg (p : Nat) (s : State) : (s.decodeDfhFields p).cfg = s.cfg := rfl
@[simp] theorem State.decodeDfhFields_eph (p : Nat) (s : State) : (s.decodeDfhFields p).eph = s.eph := rfl
@[simp] theorem State.decodeDfhFields_host (p : Nat) (s : State) : (s.decodeDfhFields p).host = s.host := rfl
@[simp] theorem State.decodeDfhFields_rdata (p : Nat) (s : State) : (s.decodeDfhFields p).rdata = s.rdata := rfl

/-! ### putUtc -/

@[simp] theorem State.putUtc_inp (k : UtcKind) (v : BitVec 64) (s : State) : (s.putUtc k v).inp = s.inp := rfl
@[simp] theorem State.putUtc_buf (k : UtcKind) (v : BitVec 64) (s : State) : (s.putUtc k v).buf = s.buf := rfl
@[simp] theorem State.putUtc_stat (k : UtcKind) (v : BitVec 64) (s : State) :
    (s.putUtc k v).stat = { s.stat with valid := writeBit s.stat.valid 4 1 } := rfl
@[simp] theorem State.putUtc_pid (k : UtcKind) (v : BitVec 64) (s : State) : (s.putUtc k v).pid = s.pid := rfl
@[simp] theorem State.putUtc_psc (k : UtcKind) (v : BitVec 64) (s : State) : (s.putUtc k v).psc = s.psc := rfl
@[simp] theorem State.putUtc_len (k : UtcKind) (v : BitVec 64) (s : State) : (s.putUtc k v).len = s.len := rfl
@[simp] theorem State.putUtc_dfh (k : UtcKind) (v : BitVec 64) (s : State) : (s.putUtc k v).dfh = s.dfh := rfl
@[simp] theorem State.putUtc_utc (k : UtcKind) (v : BitVec 64) (s : State) : (s.putUtc k v).utc = ⟨k.code, v⟩ := rfl
@[simp] theorem State.putUtc_pktMissionId (k : UtcKind) (v : BitVec 64) (s : State) :
    (s.putUtc k v).pktMissionId = s.pktMissionId := rfl
@[simp] theorem State.putUtc_pay (k : UtcKind) (v : BitVec 64) (s : State) : (s.putUtc k v).pay = s.pay := rfl
@[simp] theorem State.putUtc_res (k : UtcKind) (v : BitVec 64) (s : State) : (s.putUtc k v).res = s.res := rfl
@[simp] theorem State.putUtc_cfg (k : UtcKind) (v : BitVec 64) (s : State) : (s.putUtc k v).cfg = s.cfg := rfl
@[simp] theorem State.putUtc_eph (k : UtcKind) (v : BitVec 64) (s : State) : (s.putUtc k v).eph = s.eph := rfl
@[simp] theorem State.putUtc_host (k : UtcKind) (v : BitVec 64) (s : State) : (s.putUtc k v).host = s.host := rfl
@[simp] theorem State.putUtc_rdata (k : UtcKind) (v : BitVec 64) (s : State) : (s.putUtc k v).rdata = s.rdata := rfl

/-! ### ephTransact -/

@[simp] theorem State.ephTransact_inp (r : EphRequest) (s : State) : (s.ephTransact r).inp = s.inp := rfl
@[simp] theorem State.ephTransact_buf (r : EphRequest) (s : State) : (s.ephTransact r).buf = s.buf := rfl
@[simp] theorem State.ephTransact_stat (r : EphRequest) (s : State) : (s.ephTransact r).stat = s.stat := rfl
@[simp] theorem State.ephTransact_pid (r : EphRequest) (s : State) : (s.ephTransact r).pid = s.pid := rfl
@[simp] theorem State.ephTransact_psc (r : EphRequest) (s : State) : (s.ephTransact r).psc = s.psc := rfl
@[simp] theorem State.ephTransact_len (r : EphRequest) (s : State) : (s.ephTransact r).len = s.len := rfl
@[simp] theorem State.ephTransact_dfh (r : EphRequest) (s : State) : (s.ephTransact r).dfh = s.dfh := rfl
@[simp] theorem State.ephTransact_utc (r : EphRequest) (s : State) : (s.ephTransact r).utc = s.utc := rfl
@[simp] theorem State.ephTransact_pktMissionId (r : EphRequest) (s : State) :
    (s.ephTransact r).pktMissionId = s.pktMissionId := rfl
@[simp] theorem State.ephTransact_pay (r : EphRequest) (s : State) : (s.ephTransact r).pay = s.pay := rfl
@[simp] theorem State.ephTransact_res (r : EphRequest) (s : State) : (s.ephTransact r).res = s.res := rfl
@[simp] theorem State.ephTransact_cfg (r : EphRequest) (s : State) : (s.ephTransact r).cfg = s.cfg := rfl
@[simp] theorem State.ephTransact_eph (r : EphRequest) (s : State) :
    (s.ephTransact r).eph = ⟨s.eph.answers.tail, r :: s.eph.requests⟩ := rfl
@[simp] theorem State.ephTransact_host (r : EphRequest) (s : State) : (s.ephTransact r).host = s.host := rfl
@[simp] theorem State.ephTransact_rdata (r : EphRequest) (s : State) : (s.ephTransact r).rdata = s.rdata := rfl

/-! ### putPayload -/

@[simp] theorem State.putPayload_inp (s : State) : (s.putPayload).inp = s.inp := rfl
@[simp] theorem State.putPayload_buf (s : State) : (s.putPayload).buf = s.buf := rfl
@[simp] theorem State.putPayload_stat (s : State) :
    (s.putPayload).stat = { s.stat with valid := writeBit s.stat.valid 5 1 } := rfl
@[simp] theorem State.putPayload_pid (s : State) : (s.putPayload).pid = s.pid := rfl
@[simp] theorem State.putPayload_psc (s : State) : (s.putPayload).psc = s.psc := rfl
@[simp] theorem State.putPayload_len (s : State) : (s.putPayload).len = s.len := rfl
@[simp] theorem State.putPayload_dfh (s : State) : (s.putPayload).dfh = s.dfh := rfl
@[simp] theorem State.putPayload_utc (s : State) : (s.putPayload).utc = s.utc := rfl
@[simp] theorem State.putPayload_pktMissionId (s : State) : (s.putPayload).pktMissionId = s.pktMissionId := rfl
@[simp] theorem State.putPayload_pay (s : State) : (s.putPayload).pay = ⟨16, s.inp.bufLen - 16⟩ := rfl
@[simp] theorem State.putPayload_res (s : State) : (s.putPayload).res = s.res := rfl
@[simp] theorem State.putPayload_cfg (s : State) : (s.putPayload).cfg = s.cfg := rfl
@[simp] theorem State.putPayload_eph (s : State) : (s.putPayload).eph = s.eph := rfl
@[simp] theorem State.putPayload_host (s : State) : (s.putPayload).host = s.host := rfl
@[simp] theorem State.putPayload_rdata (s : State) : (s.putPayload).rdata = s.rdata := rfl

/-! ### putMission -/

@[simp] theorem State.putMission_inp (s : State) : (s.putMission).inp = s.inp := rfl
@[simp] theorem State.putMission_buf (s : State) : (s.putMission).buf = s.buf := rfl
@[simp] theorem State.putMission_stat (s : State) :
    (s.putMission).stat = { s.stat with valid := writeBit s.stat.valid 6 s.inp.missionKnown } := rfl
@[simp] theorem State.putMission_pid (s : State) : (s.putMission).pid = s.pid := rfl
@[simp] theorem State.putMission_psc (s : State) : (s.putMission).psc = s.psc := rfl
@[simp] theorem State.putMission_len (s : State) : (s.putMission).len = s.len := rfl
@[simp] theorem State.putMission_dfh (s : State) : (s.putMission).dfh = s.dfh := rfl
@[simp] theorem State.putMission_utc (s : State) : (s.putMission).utc = s.utc := rfl
@[simp] theorem State.putMission_pktMissionId (s : State) : (s.putMission).pktMissionId = s.inp.missionId.value := rfl
@[simp] theorem State.putMission_pay (s : State) : (s.putMission).pay = s.pay := rfl
@[simp] theorem State.putMission_res (s : State) : (s.putMission).res = s.res := rfl
@[simp] theorem State.putMission_cfg (s : State) : (s.putMission).cfg = s.cfg := rfl
@[simp] theorem State.putMission_eph (s : State) : (s.putMission).eph = s.eph := rfl
@[simp] theorem State.putMission_host (s : State) : (s.putMission).host = s.host := rfl
@[simp] theorem State.putMission_rdata (s : State) : (s.putMission).rdata = s.rdata := rfl

/-! ### putResults -/

@[simp] theorem State.putResults_inp (ws : List Nat) (s : State) : (s.putResults ws).inp = s.inp := rfl
@[simp] theorem State.putResults_buf (ws : List Nat) (s : State) : (s.putResults ws).buf = s.buf := rfl
@[simp] theorem State.putResults_stat (ws : List Nat) (s : State) :
    (s.putResults ws).stat = { s.stat with valid := writeBit s.stat.valid 8 1 } := rfl
@[simp] theorem State.putResults_pid (ws : List Nat) (s : State) : (s.putResults ws).pid = s.pid := rfl
@[simp] theorem State.putResults_psc (ws : List Nat) (s : State) : (s.putResults ws).psc = s.psc := rfl
@[simp] theorem State.putResults_len (ws : List Nat) (s : State) : (s.putResults ws).len = s.len := rfl
@[simp] theorem State.putResults_dfh (ws : List Nat) (s : State) : (s.putResults ws).dfh = s.dfh := rfl
@[simp] theorem State.putResults_utc (ws : List Nat) (s : State) : (s.putResults ws).utc = s.utc := rfl
@[simp] theorem State.putResults_pktMissionId (ws : List Nat) (s : State) :
    (s.putResults ws).pktMissionId = s.pktMissionId := rfl
@[simp] theorem State.putResults_pay (ws : List Nat) (s : State) : (s.putResults ws).pay = s.pay := rfl
@[simp] theorem State.putResults_res (ws : List Nat) (s : State) :
    (s.putResults ws).res = ⟨s.inp.wlCnt, writeResults s.res.bfx 0 (fields s.buf 0 ws)⟩ := rfl
@[simp] theorem State.putResults_cfg (ws : List Nat) (s : State) : (s.putResults ws).cfg = s.cfg := rfl
@[simp] theorem State.putResults_eph (ws : List Nat) (s : State) : (s.putResults ws).eph = s.eph := rfl
@[simp] theorem State.putResults_host (ws : List Nat) (s : State) : (s.putResults ws).host = s.host := rfl
@[simp] theorem State.putResults_rdata (ws : List Nat) (s : State) : (s.putResults ws).rdata = s.rdata := rfl

/-! ### popAction -/

@[simp] theorem State.popAction_inp (s : State) (rest : List HostAction) : (s.popAction rest).inp = s.inp := rfl
@[simp] theorem State.popAction_buf (s : State) (rest : List HostAction) : (s.popAction rest).buf = s.buf := rfl
@[simp] theorem State.popAction_stat (s : State) (rest : List HostAction) : (s.popAction rest).stat = s.stat := rfl
@[simp] theorem State.popAction_pid (s : State) (rest : List HostAction) : (s.popAction rest).pid = s.pid := rfl
@[simp] theorem State.popAction_psc (s : State) (rest : List HostAction) : (s.popAction rest).psc = s.psc := rfl
@[simp] theorem State.popAction_len (s : State) (rest : List HostAction) : (s.popAction rest).len = s.len := rfl
@[simp] theorem State.popAction_dfh (s : State) (rest : List HostAction) : (s.popAction rest).dfh = s.dfh := rfl
@[simp] theorem State.popAction_utc (s : State) (rest : List HostAction) : (s.popAction rest).utc = s.utc := rfl
@[simp] theorem State.popAction_pktMissionId (s : State) (rest : List HostAction) :
    (s.popAction rest).pktMissionId = s.pktMissionId := rfl
@[simp] theorem State.popAction_pay (s : State) (rest : List HostAction) : (s.popAction rest).pay = s.pay := rfl
@[simp] theorem State.popAction_res (s : State) (rest : List HostAction) : (s.popAction rest).res = s.res := rfl
@[simp] theorem State.popAction_cfg (s : State) (rest : List HostAction) : (s.popAction rest).cfg = s.cfg := rfl
@[simp] theorem State.popAction_eph (s : State) (rest : List HostAction) : (s.popAction rest).eph = s.eph := rfl
@[simp] theorem State.popAction_host (s : State) (rest : List HostAction) : (s.popAction rest).host = rest := rfl
@[simp] theorem State.popAction_rdata (s : State) (rest : List HostAction) : (s.popAction rest).rdata = none := rfl

/-! ### Conditional updates -/

/-- The mission policy writes at most STATUS, so a field but `stat` is as before. -/
theorem State.missionWarning_eq (s : State) :
    s.missionWarning =
      { s with stat := { s.stat with
          status := if s.inp.missionKnown = 0 then writeBit s.stat.status 2 1 else s.stat.status } } := by
  unfold State.missionWarning
  split <;> rfl

@[simp] theorem State.missionWarning_inp (s : State) : s.missionWarning.inp = s.inp := by
  rw [State.missionWarning_eq]
@[simp] theorem State.missionWarning_buf (s : State) : s.missionWarning.buf = s.buf := by
  rw [State.missionWarning_eq]
@[simp] theorem State.missionWarning_pid (s : State) : s.missionWarning.pid = s.pid := by
  rw [State.missionWarning_eq]
@[simp] theorem State.missionWarning_psc (s : State) : s.missionWarning.psc = s.psc := by
  rw [State.missionWarning_eq]
@[simp] theorem State.missionWarning_len (s : State) : s.missionWarning.len = s.len := by
  rw [State.missionWarning_eq]
@[simp] theorem State.missionWarning_dfh (s : State) : s.missionWarning.dfh = s.dfh := by
  rw [State.missionWarning_eq]
@[simp] theorem State.missionWarning_utc (s : State) : s.missionWarning.utc = s.utc := by
  rw [State.missionWarning_eq]
@[simp] theorem State.missionWarning_pktMissionId (s : State) : s.missionWarning.pktMissionId = s.pktMissionId := by
  rw [State.missionWarning_eq]
@[simp] theorem State.missionWarning_pay (s : State) : s.missionWarning.pay = s.pay := by
  rw [State.missionWarning_eq]
@[simp] theorem State.missionWarning_res (s : State) : s.missionWarning.res = s.res := by
  rw [State.missionWarning_eq]
@[simp] theorem State.missionWarning_cfg (s : State) : s.missionWarning.cfg = s.cfg := by
  rw [State.missionWarning_eq]
@[simp] theorem State.missionWarning_eph (s : State) : s.missionWarning.eph = s.eph := by
  rw [State.missionWarning_eq]
@[simp] theorem State.missionWarning_host (s : State) : s.missionWarning.host = s.host := by
  rw [State.missionWarning_eq]
@[simp] theorem State.missionWarning_rdata (s : State) : s.missionWarning.rdata = s.rdata := by
  rw [State.missionWarning_eq]

end Sys2Proof.Machine
end

