-- ==== Sys2Proof/Laws/Flow.lean ====
section
/-! SUPPORT. The control flow of a command and its checks: what each can do, said once. -/

namespace Sys2Proof.Machine

@[simp] theorem Flow.andThen_go (s : State) (k : State → Flow) : (Flow.go s).andThen k = k s := rfl
@[simp] theorem Flow.andThen_ended (s : State) (k : State → Flow) : (Flow.ended s).andThen k = .ended s := rfl
@[simp] theorem Flow.andThen_refuse (r : Refusal) (k : State → Flow) : (Flow.refuse r).andThen k = .refuse r := rfl
@[simp] theorem Flow.finish_go (s : State) : (Flow.go s).finish = .next s.endCmd := rfl
@[simp] theorem Flow.finish_ended (s : State) : (Flow.ended s).finish = .next s := rfl
@[simp] theorem Flow.finish_refuse (r : Refusal) : (Flow.refuse r).finish = .refused r := rfl

/-- A command answers a next state exactly when its parts went on to the end, or one of them raised. -/
theorem Flow.finish_eq_next {x : Flow} {t : State} (h : x.finish = .next t) :
    (∃ s, x = .go s ∧ t = s.endCmd) ∨ x = .ended t := by
  cases x with
  | go s => exact .inl ⟨s, rfl, by simpa using h.symm⟩
  | ended s => exact .inr (by simpa using h)
  | refuse r => simp at h

/-- A command never faults. -/
theorem Flow.finish_ne_fault (x : Flow) (f : Fault) : x.finish ≠ .fault f := by
  cases x <;> simp

theorem Flow.andThen_eq_go {x : Flow} {k : State → Flow} {t : State} (h : x.andThen k = .go t) :
    ∃ s, x = .go s ∧ k s = .go t := by
  cases x with
  | go s => exact ⟨s, rfl, h⟩
  | ended s => simp at h
  | refuse r => simp at h

theorem Flow.andThen_eq_ended {x : Flow} {k : State → Flow} {t : State} (h : x.andThen k = .ended t) :
    x = .ended t ∨ ∃ s, x = .go s ∧ k s = .ended t := by
  cases x with
  | go s => exact .inr ⟨s, rfl, h⟩
  | ended s => exact .inl h
  | refuse r => simp at h

theorem needBits_of_lt {u : ErrUnit} {n : Nat} {s : State} (h : s.availBits < n) :
    needBits u n s = .ended (s.raise .bufferTooShort u n s.availBits .none) := if_pos h

theorem needBits_of_le {u : ErrUnit} {n : Nat} {s : State} (h : n ≤ s.availBits) : needBits u n s = .go s :=
  if_neg (Nat.not_lt.mpr h)

/-- What the size check can do. -/
theorem needBits_cases (u : ErrUnit) (n : Nat) (s : State) :
    (n ≤ s.availBits ∧ needBits u n s = .go s) ∨
      (s.availBits < n ∧ needBits u n s = .ended (s.raise .bufferTooShort u n s.availBits .none)) := by
  rcases Nat.lt_or_ge s.availBits n with h | h
  · exact .inr ⟨h, needBits_of_lt h⟩
  · exact .inl ⟨h, needBits_of_le h⟩

theorem needBytes_of_holds {n : Nat} {s : State} (h : s.bufHolds n) : needBytes n s = .go s := by
  rw [needBytes, (Memory.firstMissing_eq_none_iff s.buf n).mpr h]

/-- What the launch check of the buffer can do. -/
theorem needBytes_cases (n : Nat) (s : State) :
    (s.bufHolds n ∧ needBytes n s = .go s) ∨
      ∃ a, a < n ∧ Memory.read s.buf a = none ∧ needBytes n s = .refuse (.noValueByte a) := by
  cases h : Memory.firstMissing s.buf n with
  | none => exact .inl ⟨(Memory.firstMissing_eq_none_iff _ _).mp h, by rw [needBytes, h]⟩
  | some a =>
    obtain ⟨hlt, hn⟩ := Memory.firstMissing_eq_some _ _ _ h
    exact .inr ⟨a, hlt, hn, by rw [needBytes, h]⟩

@[simp] theorem needHeld_true (n : Nat) (s : State) : needHeld n true s = .go s := rfl
@[simp] theorem needHeld_false (n : Nat) (s : State) : needHeld n false s = .refuse (.noValueRegister n) := rfl

/-- What the launch check of a register can do. -/
theorem needHeld_cases (n : Nat) (held : Bool) (s : State) :
    (held = true ∧ needHeld n held s = .go s) ∨ (held = false ∧ needHeld n held s = .refuse (.noValueRegister n)) := by
  cases held <;> simp

/-- Reading one bit of a register after one bit is written. -/
theorem getLsbD_writeBit {w : Nat} (v : BitVec w) (k j : Nat) (b : BitVec 1) (hk : k < w) :
    (writeBit v k b).getLsbD j = if j = k then b.getLsbD 0 else v.getLsbD j := by
  unfold writeBit
  by_cases hj : j < w
  · simp only [BitVec.getLsbD_or, BitVec.getLsbD_and, BitVec.getLsbD_not, BitVec.getLsbD_shiftLeft, BitVec.getLsbD_setWidth, hj,
      decide_true, Bool.true_and]
    by_cases hjk : j = k
    · subst hjk
      simp [hj, show 0 < w by omega]
    · rcases Nat.lt_or_ge j k with h | h
      · simp [hjk, h]
      · have h0 : j - k ≠ 0 := by omega
        have h1 : 1 ≤ j - k := by omega
        simp [hjk, Nat.not_lt.mpr h, h0, BitVec.getLsbD_of_ge b (j - k) h1]
  · have hj' : w ≤ j := Nat.le_of_not_lt hj
    have hne : j ≠ k := by omega
    simp [hj, hne, BitVec.getLsbD_of_ge v j hj']

end Sys2Proof.Machine
end

