-- ==== Sys2Proof/Laws/Resolve.lean ====
section
/-! SUPPORT. The time resolver, the time policy and the length check: everything each can do, said once. -/

namespace Sys2Proof.Machine

@[simp] theorem State.ephAnswer_of_cons {s : State} {a : EphAnswer} {as : List EphAnswer} (r : EphRequest)
    (h : s.eph.answers = a :: as) : s.ephAnswer r = a := by
  rw [State.ephAnswer, h]

/-- The service's answer depends on the port alone. -/
theorem State.ephAnswer_congr {s t : State} (h : s.eph = t.eph) (r : EphRequest) : s.ephAnswer r = t.ephAnswer r := by
  rw [State.ephAnswer, State.ephAnswer, h]

/-- The linear strategy writes the UTC group, or is refused over a register that holds no value. -/
theorem resolveLinear_cases (c : InputReg 31) (f : InputReg 16) (t0 : InputReg 64) (s : State) :
    (t0.held = true ∧ c.held = true ∧ f.held = true ∧
        resolveLinear c f t0 s = .go (s.putUtc .linear (linearUtc s.cfg.usecRounding t0.value c.value f.value))) ∨
      ∃ n, ((n = 0x05 ∧ t0.held = false) ∨ (n = 0x06 ∧ c.held = false) ∨ (n = 0x07 ∧ f.held = false)) ∧
        resolveLinear c f t0 s = .refuse (.noValueRegister n) := by
  obtain ⟨_, th⟩ := t0
  obtain ⟨_, ch⟩ := c
  obtain ⟨_, fh⟩ := f
  cases th <;> cases ch <;> cases fh <;> simp [resolveLinear]

/-- The ephemeris strategy raises for an unknown mission, refuses where a register it needs holds no value, and else makes
one request: it raises when the service fails, and copies its answer when it does not. -/
theorem resolveEphemeris_cases (c : InputReg 31) (f : InputReg 16) (mid : InputReg 32) (known : BitVec 1) (u : ErrUnit)
    (s : State) :
    (known = 0 ∧ resolveEphemeris c f mid known u s = .ended (s.raise .timeConversion u 0 0 .missionUnrecognized)) ∨
      (known ≠ 0 ∧
        ∃ n, ((n = 0x02 ∧ mid.held = false) ∨ (n = 0x06 ∧ c.held = false) ∨ (n = 0x07 ∧ f.held = false)) ∧
          resolveEphemeris c f mid known u s = .refuse (.noValueRegister n)) ∨
      (known ≠ 0 ∧ mid.held = true ∧ c.held = true ∧ f.held = true ∧
        (s.ephAnswer (ephRequest mid.value c.value f.value)).ok = 0 ∧
        resolveEphemeris c f mid known u s =
          .ended ((s.ephTransact (ephRequest mid.value c.value f.value)).raise .timeConversion u 0 0 .serviceFailed)) ∨
      (known ≠ 0 ∧ mid.held = true ∧ c.held = true ∧ f.held = true ∧
        (s.ephAnswer (ephRequest mid.value c.value f.value)).ok ≠ 0 ∧
        resolveEphemeris c f mid known u s =
          .go ((s.ephTransact (ephRequest mid.value c.value f.value)).putUtc .ephemeris
            (s.ephAnswer (ephRequest mid.value c.value f.value)).cal)) := by
  by_cases hk : known = 0
  · exact .inl ⟨hk, if_pos hk⟩
  · refine .inr ?_
    obtain ⟨mv, mh⟩ := mid
    obtain ⟨cv, ch⟩ := c
    obtain ⟨fv, fh⟩ := f
    replace hk : ¬ known = 0#1 := hk
    by_cases hok : (s.ephAnswer (ephRequest mv cv fv)).ok = 0#1
    · cases mh <;> cases ch <;> cases fh <;> simp [resolveEphemeris, hk, hok]
    · cases mh <;> cases ch <;> cases fh <;> simp [resolveEphemeris, hk, hok]

/-- The time policy: the sentinel for an unsynchronized header, else the resolver on the decoded pair. -/
theorem dfhTime_cases (t0v : BitVec 1) (t0 : InputReg 64) (s : State) :
    (s.dfh.syncBit = 1 ∧ dfhTime t0v t0 s = .go (s.putUtc .sentinel 0)) ∨
      (s.dfh.syncBit ≠ 1 ∧ t0v = 1 ∧
        dfhTime t0v t0 s = resolveLinear (.holding s.dfh.coarse) (.holding s.dfh.fine) t0 s) ∨
      (s.dfh.syncBit ≠ 1 ∧ t0v ≠ 1 ∧
        dfhTime t0v t0 s =
          resolveEphemeris (.holding s.dfh.coarse) (.holding s.dfh.fine) s.inp.missionId s.inp.missionKnown .dfh s) := by
  by_cases hs : s.dfh.syncBit = 1
  · exact .inl ⟨hs, if_pos hs⟩
  · by_cases ht : t0v = 1
    · exact .inr (.inl ⟨hs, ht, by rw [dfhTime, if_neg hs, resolve, if_pos ht]⟩)
    · exact .inr (.inr ⟨hs, ht, by rw [dfhTime, if_neg hs, resolve, if_neg ht]⟩)

/-- The length check of DPKT. -/
theorem checkPacketLength_cases (s : State) :
    ((s.cfg.checkLength = true → s.inp.bufLen.toNat - 6 = s.len.pktLen.toNat) ∧ checkPacketLength s = .go s) ∨
      (s.cfg.checkLength = true ∧ s.inp.bufLen.toNat - 6 ≠ s.len.pktLen.toNat ∧
        checkPacketLength s =
          .ended (s.raise .consistency .pkt (8 * s.len.pktLen.toNat) (8 * (s.inp.bufLen.toNat - 6)) .none)) := by
  unfold checkPacketLength
  split
  · rename_i h
    exact .inr ⟨h.1, h.2, rfl⟩
  · rename_i h
    exact .inl ⟨fun hc => by_contra fun hn => h ⟨hc, hn⟩, rfl⟩

end Sys2Proof.Machine
end

