-- ==== Sys2Proof/Laws/Step.lean ====
section
/-! SUPPORT. Everything a step and a host move can do. -/

namespace Sys2Proof.Machine

/-- A step is the next host move, or nothing. -/
theorem step_cases (s : State) :
    (s.host = [] ∧ step s = .next s) ∨ ∃ a rest, s.host = a :: rest ∧ step s = runAction a (s.popAction rest) := by
  unfold step
  cases h : s.host with
  | nil => exact .inl ⟨rfl, rfl⟩
  | cons a rest => exact .inr ⟨a, rest, rfl, rfl⟩

/-- A host write runs a command, or writes a register, or stops. -/
theorem State.hostWrite_cases (s : State) (n : Nat) (v : Int) :
    (regOfNumber s.cfg n = some .cmd ∧ fitsUnsigned 8 v ∧ s.hostWrite n v = exec (decode (BitVec.ofInt 8 v)) s) ∨
      (regOfNumber s.cfg n = some .cmd ∧ ¬ fitsUnsigned 8 v ∧ s.hostWrite n v = .refused (.valueTooWide n)) ∨
      (∃ r, r ≠ .cmd ∧ regOfNumber s.cfg n = some r ∧ s.hostWrite n v = s.writeReg n r v) ∨
      (regOfNumber s.cfg n = none ∧ s.hostWrite n v = .refused (.unimplementedRegister n)) := by
  unfold State.hostWrite
  cases hr : regOfNumber s.cfg n with
  | none => exact .inr (.inr (.inr ⟨rfl, rfl⟩))
  | some r =>
    by_cases hc : r = .cmd
    · subst hc
      by_cases hv : fitsUnsigned 8 v
      · exact .inl ⟨rfl, hv, if_pos hv⟩
      · exact .inr (.inl ⟨rfl, hv, if_neg hv⟩)
    · refine .inr (.inr (.inl ⟨r, hc, rfl, ?_⟩))
      cases r <;> first | rfl | exact absurd rfl hc

/-- A checked write answers the written state, and only for a value the register can hold. -/
theorem checkedWrite_eq_next {n : Nat} {p : Bool} {t u : State} (h : checkedWrite n p t = .next u) : p = true ∧ u = t := by
  unfold checkedWrite at h
  split at h
  · rename_i hp
    exact ⟨hp, by simpa using h.symm⟩
  · simp at h

/-- A write of the reference epoch registers keeps `T0_US` legal where it counts. -/
theorem checkedT0_eq_next {t u : State} (h : checkedT0 t = .next u) :
    u = t ∧ (t.inp.t0Valid = 1 → t.inp.t0Us.held = true → t0InRange t.inp.t0Us.value.toInt) := by
  unfold checkedT0 at h
  split at h
  · simp at h
  · rename_i hn
    refine ⟨by simpa using h.symm, fun h1 h2 => ?_⟩
    by_contra h3
    exact hn ⟨h1, h2, h3⟩

/-- The number of a register (10_state section 10). -/
def regNumber : Reg → Nat
  | .cmd => 0x00
  | .bufLen => 0x01
  | .missionId => 0x02
  | .missionKnown => 0x03
  | .t0Valid => 0x04
  | .t0Us => 0x05
  | .scetInCoarse => 0x06
  | .scetInFine => 0x07
  | .wlCnt => 0x08
  | .status => 0x20
  | .errCode => 0x21
  | .errUnit => 0x22
  | .errReqBits => 0x23
  | .errAvailBits => 0x24
  | .errCause => 0x25
  | .valid => 0x26
  | .version => 0x30
  | .ptype => 0x31
  | .shf => 0x32
  | .apid => 0x33
  | .processId => 0x34
  | .pktCat => 0x35
  | .segFlag => 0x36
  | .seqCount => 0x37
  | .rawLen => 0x38
  | .pktLen => 0x39
  | .pusVer => 0x40
  | .svcType => 0x41
  | .svcSubtype => 0x42
  | .destId => 0x43
  | .syncBit => 0x44
  | .timeSync => 0x45
  | .coarse => 0x46
  | .fine => 0x47
  | .utcKind => 0x48
  | .utcVal => 0x49
  | .pktMissionId => 0x4A
  | .payloadOff => 0x4B
  | .payloadLen => 0x4C
  | .bfxCnt => 0x50
  | .wl i => 0x10 + i
  | .bfx i => 0x60 + i

/-- A number names a register only if it is that register's number, so no two numbers name one register. -/
theorem eq_regNumber {c : Config} {n : Nat} {r : Reg} (h : regOfNumber c n = some r) :
    n = regNumber r ∧ ∀ i, (r = .wl i ∨ r = .bfx i) → i < c.wlMax := by
  unfold regOfNumber at h
  split at h <;> try (cases h; exact ⟨rfl, fun i hi => by rcases hi with hi | hi <;> cases hi⟩)
  split at h
  · cases h
    refine ⟨by simp only [regNumber]; omega, fun i hi => ?_⟩
    rcases hi with hi | hi <;> cases hi
    omega
  · split at h
    · cases h
      refine ⟨by simp only [regNumber]; omega, fun i hi => ?_⟩
      rcases hi with hi | hi <;> cases hi
      omega
    · cases h

/-- A number from 0x10 on that belongs to the width list. -/
theorem regOfNumber_wl {c : Config} {i : Nat} (hi : i < 16) (hw : i < c.wlMax) : regOfNumber c (0x10 + i) = some (.wl i) := by
  have h (n : Nat) (h1 : 0x10 ≤ n) (h2 : n < 0x20) (h3 : n < 0x10 + c.wlMax) : regOfNumber c n = some (.wl (n - 0x10)) := by
    interval_cases n <;> exact if_pos ⟨by omega, h3⟩
  rw [h _ (by omega) (by omega) (by omega), Nat.add_sub_cancel_left]

/-- A number from 0x60 on that belongs to the result file. -/
theorem regOfNumber_bfx {c : Config} {i : Nat} (hc : c.wlMax ≤ 16) (hi : i < c.wlMax) :
    regOfNumber c (0x60 + i) = some (.bfx i) := by
  have h (n : Nat) (h1 : 0x60 ≤ n) (h2 : n < 0x70) (h3 : n < 0x60 + c.wlMax) : regOfNumber c n = some (.bfx (n - 0x60)) := by
    interval_cases n <;> exact (if_neg (by omega)).trans (if_pos ⟨by omega, h3⟩)
  rw [h _ (by omega) (by omega) (by omega), Nat.add_sub_cancel_left]

/-- A read of a host-written register that holds no value is refused. -/
theorem State.hostRead_missionId_of_not_held {s : State} (h : s.inp.missionId.held = false) :
    s.hostRead 0x02 = .refused (.noValueRegister 0x02) := by
  show readInput _ s.inp.missionId.held _ = _
  rw [h]; rfl

theorem State.hostRead_t0Us_of_not_held {s : State} (h : s.inp.t0Us.held = false) :
    s.hostRead 0x05 = .refused (.noValueRegister 0x05) := by
  show readInput _ s.inp.t0Us.held _ = _
  rw [h]; rfl

theorem State.hostRead_scetInCoarse_of_not_held {s : State} (h : s.inp.scetInCoarse.held = false) :
    s.hostRead 0x06 = .refused (.noValueRegister 0x06) := by
  show readInput _ s.inp.scetInCoarse.held _ = _
  rw [h]; rfl

theorem State.hostRead_scetInFine_of_not_held {s : State} (h : s.inp.scetInFine.held = false) :
    s.hostRead 0x07 = .refused (.noValueRegister 0x07) := by
  show readInput _ s.inp.scetInFine.held _ = _
  rw [h]; rfl

/-- A read of an entry of the width list that holds no value is refused. -/
theorem State.hostRead_wl_of_not_held {s : State} {i : Nat} {r : InputReg 8} (hc : s.inp.wlCnt.toNat ≤ s.cfg.wlMax)
    (hr : s.widthEntries[i]? = some r) (hh : r.held = false) :
    s.hostRead (0x10 + i) = .refused (.noValueRegister (0x10 + i)) := by
  rw [State.widthEntries, List.getElem?_take] at hr
  split at hr
  · rename_i hlt
    obtain ⟨h16, hv⟩ := List.getElem?_eq_some_iff.mp hr
    rw [Vector.length_toList] at h16
    have he : s.wlEntry i = r := by rw [State.wlEntry, List.getD_eq_getElem?_getD, hr]; rfl
    rw [State.hostRead, regOfNumber_wl h16 (Nat.lt_of_lt_of_le hlt hc)]
    show readInput _ (s.wlEntry i).held _ = _
    rw [he, hh]; rfl
  · cases hr

/-- A read leaves the block as it was. -/
theorem State.respond_eq_next {s t : State} {x : Host.Outcome Int Fault Refusal} (h : s.respond x = .next t) :
    ∃ v, x = .next v ∧ t = { s with rdata := some v } := by
  cases x with
  | next v => exact ⟨v, rfl, by simpa [State.respond] using h.symm⟩
  | fault f => simp [State.respond] at h
  | refused r => simp [State.respond] at h

end Sys2Proof.Machine
end

