-- ==== Sys2Proof/Laws/Exec.lean ====
section
/-! SUPPORT. What a running command's operations do to its status registers, and for each command that checks anything
everything it can do: the cases of its end, said once. -/

namespace Sys2Proof.Machine

/-- The status registers of a command that is still running. -/
def StatusRegs.running (w : BitVec 1) (valid : BitVec 9) : StatusRegs where
  status := w ++ 0b00#2
  errCode := 0
  errUnit := 0
  errReqBits := 0
  errAvailBits := 0
  errCause := 0
  valid := valid

/-- The prologue starts a command with nothing valid. -/
theorem State.beginCmd_eq (s : State) : s.beginCmd = { s with stat := .running 0 0 } := rfl

/-- Setting DONE in the status of a running command. -/
theorem writeBit_done (w : BitVec 1) : writeBit (w ++ 0b00#2) 0 1 = w ++ 0b01#2 := by revert w; decide
/-- Setting ERR and DONE in the status of a running command. -/
theorem writeBit_done_err (w : BitVec 1) : writeBit (writeBit (w ++ 0b00#2) 1 1) 0 1 = w ++ 0b11#2 := by revert w; decide

/-- The epilogue of a running command. -/
theorem State.endCmd_of_running {s : State} {w : BitVec 1} {v : BitVec 9} (h : s.stat = .running w v) :
    s.endCmd = { s with stat := .success w v } := by
  show { s with stat := { s.stat with status := writeBit s.stat.status 0 1 } } = _
  rw [h, StatusRegs.running, StatusRegs.success, writeBit_done]

/-- An error of a running command. -/
theorem State.raise_of_running {s : State} {w : BitVec 1} {v : BitVec 9} (h : s.stat = .running w v) (e : ErrKind)
    (u : ErrUnit) (req avail : Nat) (k : ErrCause) :
    s.raise e u req avail k = { s with stat := .failure w e.code u.code req avail k.code v } := by
  show { s with stat := (s.raise e u req avail k).stat } = _
  rw [State.raise_stat, h, StatusRegs.running, StatusRegs.failure]
  dsimp only
  rw [writeBit_done_err]

/-- A valid bit written by a running command. -/
theorem State.setValid_of_running {s : State} {w : BitVec 1} {v : BitVec 9} (h : s.stat = .running w v) (g : Group)
    (b : BitVec 1) : s.setValid g b = { s with stat := .running w (writeBit v g.bit b) } := by
  show { s with stat := { s.stat with valid := writeBit s.stat.valid g.bit b } } = _
  rw [h]; rfl

/-- The start of a command that reads `n` bytes. -/
theorem gate_cases (u : ErrUnit) (n m : Nat) (hm : m = 8 * n) (s : State) (k : State → Flow) :
    (s.inp.bufLen.toNat < n ∧
        (((needBits u m s).andThen fun s => (needBytes n s).andThen k)) =
          .ended (s.raise .bufferTooShort u m s.availBits .none)) ∨
      (n ≤ s.inp.bufLen.toNat ∧ s.bufHolds n ∧
        (((needBits u m s).andThen fun s => (needBytes n s).andThen k)) = k s) ∨
      (n ≤ s.inp.bufLen.toNat ∧ ∃ a, a < n ∧ Memory.read s.buf a = none ∧
        (((needBits u m s).andThen fun s => (needBytes n s).andThen k)) = .refuse (.noValueByte a)) := by
  subst hm
  rcases needBits_cases u (8 * n) s with ⟨hl, h⟩ | ⟨hl, h⟩
  · have hl' : n ≤ s.inp.bufLen.toNat := by unfold State.availBits at hl; omega
    rw [h, Flow.andThen_go]
    rcases needBytes_cases n s with ⟨hb, h⟩ | ⟨a, ha, hr, h⟩
    · exact .inr (.inl ⟨hl', hb, by rw [h, Flow.andThen_go]⟩)
    · exact .inr (.inr ⟨hl', a, ha, hr, by rw [h, Flow.andThen_refuse]⟩)
  · exact .inl ⟨by unfold State.availBits at hl; omega, by rw [h, Flow.andThen_ended]⟩


/-- What CLR does. -/
theorem execClr_eq (s : State) : execClr s = .next { s with stat := .success 0 0 } := by
  rw [execClr, Flow.finish_go, State.endCmd_of_running (w := 0) (v := 0) rfl, State.beginCmd_eq]

/-- What a reserved code does. -/
theorem execReserved_eq (c : BitVec 8) (s : State) : execReserved c s = .next { s with stat := .failure 0 4 0 0 0 0 0 } := by
  rw [execReserved, Flow.finish_ended, State.raise_of_running (w := 0) (v := 0) rfl]; rfl

/-- What DPID can do. -/
theorem execDpid_cases (s : State) :
    (s.inp.bufLen.toNat < 2 ∧ execDpid s = .next { s with stat := .failure 0 1 2 16 s.availBits 0 0 }) ∨
      (2 ≤ s.inp.bufLen.toNat ∧ s.bufHolds 2 ∧
        execDpid s = .next { s with stat := .success 0 0x001, pid := pidFields s.buf 0 }) ∨
      (2 ≤ s.inp.bufLen.toNat ∧ ∃ a, a < 2 ∧ Memory.read s.buf a = none ∧ execDpid s = .refused (.noValueByte a)) := by
  rcases gate_cases .pid 2 16 rfl s.beginCmd (fun s => .go (s.decodePid 0)) with ⟨hl, h⟩ | ⟨hl, hb, h⟩ | ⟨hl, a, ha, hr, h⟩
  · refine .inl ⟨hl, (congrArg Flow.finish h).trans ?_⟩
    rw [State.raise_of_running (w := 0) (v := 0) rfl]; rfl
  · refine .inr (.inl ⟨hl, hb, (congrArg Flow.finish h).trans ?_⟩)
    rw [Flow.finish_go, State.endCmd_of_running (w := 0) (v := 1) (by rw [State.decodePid_stat, State.beginCmd_stat]; decide)]
    rfl
  · exact .inr (.inr ⟨hl, a, ha, hr, congrArg Flow.finish h⟩)

/-- What DPSC can do. -/
theorem execDpsc_cases (s : State) :
    (s.inp.bufLen.toNat < 2 ∧ execDpsc s = .next { s with stat := .failure 0 1 3 16 s.availBits 0 0 }) ∨
      (2 ≤ s.inp.bufLen.toNat ∧ s.bufHolds 2 ∧
        execDpsc s = .next { s with stat := .success 0 0x002, psc := pscFields s.buf 0 }) ∨
      (2 ≤ s.inp.bufLen.toNat ∧ ∃ a, a < 2 ∧ Memory.read s.buf a = none ∧ execDpsc s = .refused (.noValueByte a)) := by
  rcases gate_cases .psc 2 16 rfl s.beginCmd (fun s => .go (s.decodePsc 0)) with ⟨hl, h⟩ | ⟨hl, hb, h⟩ | ⟨hl, a, ha, hr, h⟩
  · refine .inl ⟨hl, (congrArg Flow.finish h).trans ?_⟩
    rw [State.raise_of_running (w := 0) (v := 0) rfl]; rfl
  · refine .inr (.inl ⟨hl, hb, (congrArg Flow.finish h).trans ?_⟩)
    rw [Flow.finish_go, State.endCmd_of_running (w := 0) (v := 2) (by rw [State.decodePsc_stat, State.beginCmd_stat]; decide)]
    rfl
  · exact .inr (.inr ⟨hl, a, ha, hr, congrArg Flow.finish h⟩)

/-- What DSPH can do. -/
theorem execDsph_cases (s : State) :
    (s.inp.bufLen.toNat < 6 ∧ execDsph s = .next { s with stat := .failure 0 1 4 48 s.availBits 0 0 }) ∨
      (6 ≤ s.inp.bufLen.toNat ∧ s.bufHolds 6 ∧
        execDsph s = .next { s with
          stat := .success 0 0x007, pid := pidFields s.buf 0, psc := pscFields s.buf 16, len := lenFields s.buf 32 }) ∨
      (6 ≤ s.inp.bufLen.toNat ∧ ∃ a, a < 6 ∧ Memory.read s.buf a = none ∧ execDsph s = .refused (.noValueByte a)) := by
  rcases gate_cases .sph 6 48 rfl s.beginCmd (fun s => .go (s.decodeSph 0)) with ⟨hl, h⟩ | ⟨hl, hb, h⟩ | ⟨hl, a, ha, hr, h⟩
  · refine .inl ⟨hl, (congrArg Flow.finish h).trans ?_⟩
    rw [State.raise_of_running (w := 0) (v := 0) rfl]; rfl
  · refine .inr (.inl ⟨hl, hb, (congrArg Flow.finish h).trans ?_⟩)
    rw [Flow.finish_go, State.endCmd_of_running (w := 0) (v := 7)
      (by rw [State.decodeSph_stat, State.beginCmd_stat]; decide)]
    rfl
  · exact .inr (.inr ⟨hl, a, ha, hr, congrArg Flow.finish h⟩)

/-- What BFX can do. -/
theorem execBfx_cases (s : State) :
    (s.cfg.wlMax < s.inp.wlCnt.toNat ∧
        execBfx s = .next { s with stat := .failure 0 5 1 s.inp.wlCnt.toNat 0 0 0 }) ∨
      (s.inp.wlCnt.toNat ≤ s.cfg.wlMax ∧ ∃ i, scanWidths s.cfg.fieldMax 0 s.widthEntries = .noValue i ∧
        s.hostRead (0x10 + i) = .refused (.noValueRegister (0x10 + i)) ∧ execBfx s = .refused (.noValueRegister (0x10 + i))) ∨
      (s.inp.wlCnt.toNat ≤ s.cfg.wlMax ∧ ∃ i, scanWidths s.cfg.fieldMax 0 s.widthEntries = .bad i ∧
        execBfx s = .next { s with stat := .failure 0 5 1 i 0 0 0 }) ∨
      (s.widthsLegal ∧ s.availBits < s.widthSum ∧
        execBfx s = .next { s with stat := .failure 0 1 1 s.widthSum s.availBits 0 0 }) ∨
      (s.widthsLegal ∧ s.widthSum ≤ s.availBits ∧ s.bufHolds ((s.widthSum + 7) / 8) ∧
        execBfx s = .next { s with
          stat := .success 0 0x100
          res := ⟨s.inp.wlCnt, writeResults s.res.bfx 0 (fields s.buf 0 (s.widthEntries.map fun r => r.value.toNat))⟩ }) ∨
      (s.widthsLegal ∧ s.widthSum ≤ s.availBits ∧
        ∃ a, a < (s.widthSum + 7) / 8 ∧ Memory.read s.buf a = none ∧ execBfx s = .refused (.noValueByte a)) := by
  by_cases hc : s.cfg.wlMax < s.inp.wlCnt.toNat
  · refine .inl ⟨hc, ?_⟩
    show Flow.finish (if _ then _ else _) = _
    rw [if_pos (show s.beginCmd.cfg.wlMax < s.beginCmd.inp.wlCnt.toNat from hc), Flow.finish_ended, State.raise_of_running (w := 0) (v := 0) rfl]; rfl
  · have hc' := Nat.le_of_not_lt hc
    have hx : execBfx s = Flow.finish (match scanWidths s.cfg.fieldMax 0 s.widthEntries with
      | .noValue i => .refuse (.noValueRegister (0x10 + i))
      | .bad i => .ended (s.beginCmd.raise .badWidthList .bfx i 0 .none)
      | .good ws => extractWidths ws s.beginCmd) := by
      show Flow.finish (if _ then _ else _) = _
      rw [if_neg (show ¬ s.beginCmd.cfg.wlMax < s.beginCmd.inp.wlCnt.toNat from hc)]; rfl
    refine .inr ?_
    cases h : scanWidths s.cfg.fieldMax 0 s.widthEntries with
    | noValue i =>
      obtain ⟨k, r, rfl, hr, hh⟩ := scanWidths_noValue _ _ _ _ h
      exact .inl ⟨hc', 0 + k, rfl, State.hostRead_wl_of_not_held hc' (by rwa [Nat.zero_add]) hh, by rw [hx, h]; rfl⟩
    | bad i =>
      refine .inr (.inl ⟨hc', i, rfl, ?_⟩)
      rw [hx, h, Flow.finish_ended, State.raise_of_running (w := 0) (v := 0) rfl]; rfl
    | good ws =>
      refine .inr (.inr ?_)
      obtain ⟨hw, hall⟩ := scanWidths_good _ _ _ _ h
      subst hw
      have hleg : s.widthsLegal := ⟨hc', hall⟩
      rw [h] at hx
      rcases needBits_cases .bfx (s.widthEntries.map fun r => r.value.toNat).sum s.beginCmd with ⟨hl, h⟩ | ⟨hl, h⟩
      · rcases needBytes_cases (((s.widthEntries.map fun r => r.value.toNat).sum + 7) / 8) s.beginCmd with ⟨hb, h'⟩ | ⟨a, ha, hr, h'⟩
        · refine .inr (.inl ⟨hleg, hl, hb, ?_⟩)
          simp only [extractWidths, h, Flow.andThen_go, h', Flow.finish_go] at hx
          rw [hx, State.endCmd_of_running (w := 0) (v := 0x100) (by rw [State.putResults_stat, State.beginCmd_stat]; decide)]
          rfl
        · refine .inr (.inr ⟨hleg, hl, a, ha, hr, ?_⟩)
          simp only [extractWidths, h, Flow.andThen_go, h', Flow.andThen_refuse, Flow.finish_refuse] at hx
          exact hx
      · refine .inl ⟨hleg, hl, ?_⟩
        simp only [extractWidths, h, Flow.andThen_ended, Flow.finish_ended] at hx
        rw [hx, State.raise_of_running (w := 0) (v := 0) rfl]; rfl

/-- What the resolver can do to a running command. -/
theorem resolve_running (c : InputReg 31) (f : InputReg 16) (mid : InputReg 32) (known t0v : BitVec 1) (t0 : InputReg 64)
    (u : ErrUnit) (s : State) (w : BitVec 1) (v : BitVec 9) (h : s.stat = .running w v) :
    (t0v = 1 ∧ t0.held = true ∧ c.held = true ∧ f.held = true ∧
      resolve c f mid known t0v t0 u s = .go { s with
        stat := .running w (writeBit v 4 1)
        utc := ⟨1, linearUtc s.cfg.usecRounding t0.value c.value f.value⟩ }) ∨
    (t0v = 0 ∧ known = 0 ∧ resolve c f mid known t0v t0 u s = .ended { s with stat := .failure w 2 u.code 0 0 1 v }) ∨
    (t0v = 0 ∧ known = 1 ∧ mid.held = true ∧ c.held = true ∧ f.held = true ∧
      (s.ephAnswer (ephRequest mid.value c.value f.value)).ok = 0 ∧
      resolve c f mid known t0v t0 u s = .ended { s with
        stat := .failure w 2 u.code 0 0 2 v
        eph := ⟨s.eph.answers.tail, ephRequest mid.value c.value f.value :: s.eph.requests⟩ }) ∨
    (t0v = 0 ∧ known = 1 ∧ mid.held = true ∧ c.held = true ∧ f.held = true ∧
      (s.ephAnswer (ephRequest mid.value c.value f.value)).ok = 1 ∧
      resolve c f mid known t0v t0 u s = .go { s with
        stat := .running w (writeBit v 4 1)
        utc := ⟨2, (s.ephAnswer (ephRequest mid.value c.value f.value)).cal⟩
        eph := ⟨s.eph.answers.tail, ephRequest mid.value c.value f.value :: s.eph.requests⟩ }) ∨
    ∃ n, ((t0v = 1 ∧ n = 0x05 ∧ t0.held = false) ∨ (t0v = 0 ∧ known = 1 ∧ n = 0x02 ∧ mid.held = false) ∨
        ((t0v = 1 ∨ known = 1) ∧ ((n = 0x06 ∧ c.held = false) ∨ (n = 0x07 ∧ f.held = false)))) ∧
      resolve c f mid known t0v t0 u s = .refuse (.noValueRegister n) := by
  have b1 : ∀ x : BitVec 1, x ≠ 0 → x = 1 := by decide
  have b0 : ∀ x : BitVec 1, x ≠ 1 → x = 0 := by decide
  have hv (k : UtcKind) (x : BitVec 64) (s : State) (h : s.stat = .running w v) : s.putUtc k x = { s with stat := .running w (writeBit v 4 1), utc := ⟨k.code, x⟩ } :=
    State.setValid_of_running (s := { s with utc := ⟨k.code, x⟩ }) h .utc 1
  by_cases ht : t0v = 1
  · rw [resolve, if_pos ht]
    rcases resolveLinear_cases c f t0 s with ⟨h1, h2, h3, h4⟩ | ⟨n, h1 | h1, h2⟩
    · refine .inl ⟨ht, h1, h2, h3, ?_⟩
      rw [h4, hv _ _ _ h]; rfl
    · exact .inr (.inr (.inr (.inr ⟨n, .inl ⟨ht, h1⟩, h2⟩)))
    · exact .inr (.inr (.inr (.inr ⟨n, .inr (.inr ⟨.inl ht, h1⟩), h2⟩)))
  · rw [resolve, if_neg ht]
    replace ht := b0 _ ht
    rcases resolveEphemeris_cases c f mid known u s with
      ⟨h1, h2⟩ | ⟨h1, n, h2 | h2, h3⟩ | ⟨h1, h2, h3, h4, h5, h6⟩ | ⟨h1, h2, h3, h4, h5, h6⟩
    · refine .inr (.inl ⟨ht, h1, ?_⟩)
      rw [h2, State.raise_of_running h]; rfl
    · exact .inr (.inr (.inr (.inr ⟨n, .inr (.inl ⟨ht, b1 _ h1, h2⟩), h3⟩)))
    · exact .inr (.inr (.inr (.inr ⟨n, .inr (.inr ⟨.inr (b1 _ h1), h2⟩), h3⟩)))
    · refine .inr (.inr (.inl ⟨ht, b1 _ h1, h2, h3, h4, h5, ?_⟩))
      rw [h6, State.raise_of_running (s := State.ephTransact _ s) h]; rfl
    · refine .inr (.inr (.inr (.inl ⟨ht, b1 _ h1, h2, h3, h4, b1 _ h5, ?_⟩)))
      rw [h6, hv _ _ (State.ephTransact _ s) h]; rfl

/-- What TRES can do. -/
theorem execTres_cases (s : State) :
    (s.inp.t0Valid = 1 ∧ s.inp.t0Us.held = true ∧ s.inp.scetInCoarse.held = true ∧ s.inp.scetInFine.held = true ∧
      execTres s = .next { s with
        stat := .success 0 0x010
        utc := ⟨1, linearUtc s.cfg.usecRounding s.inp.t0Us.value s.inp.scetInCoarse.value s.inp.scetInFine.value⟩ }) ∨
    (s.inp.t0Valid = 0 ∧ s.inp.missionKnown = 0 ∧ execTres s = .next { s with stat := .failure 0 2 7 0 0 1 0 }) ∨
    (s.inp.t0Valid = 0 ∧ s.inp.missionKnown = 1 ∧ s.inp.missionId.held = true ∧ s.inp.scetInCoarse.held = true ∧
      s.inp.scetInFine.held = true ∧
      (s.ephAnswer (ephRequest s.inp.missionId.value s.inp.scetInCoarse.value s.inp.scetInFine.value)).ok = 0 ∧
      execTres s = .next { s with
        stat := .failure 0 2 7 0 0 2 0
        eph := ⟨s.eph.answers.tail,
          ephRequest s.inp.missionId.value s.inp.scetInCoarse.value s.inp.scetInFine.value :: s.eph.requests⟩ }) ∨
    (s.inp.t0Valid = 0 ∧ s.inp.missionKnown = 1 ∧ s.inp.missionId.held = true ∧ s.inp.scetInCoarse.held = true ∧
      s.inp.scetInFine.held = true ∧
      (s.ephAnswer (ephRequest s.inp.missionId.value s.inp.scetInCoarse.value s.inp.scetInFine.value)).ok = 1 ∧
      execTres s = .next { s with
        stat := .success 0 0x010
        utc := ⟨2, (s.ephAnswer (ephRequest s.inp.missionId.value s.inp.scetInCoarse.value s.inp.scetInFine.value)).cal⟩
        eph := ⟨s.eph.answers.tail,
          ephRequest s.inp.missionId.value s.inp.scetInCoarse.value s.inp.scetInFine.value :: s.eph.requests⟩ }) ∨
    (¬ CommandReady .tres s ∧
      ∃ n, s.hostRead n = .refused (.noValueRegister n) ∧ execTres s = .refused (.noValueRegister n)) := by
  rcases resolve_running s.inp.scetInCoarse s.inp.scetInFine s.inp.missionId s.inp.missionKnown s.inp.t0Valid s.inp.t0Us .tres
    s.beginCmd 0 0 rfl with ⟨h1, h2, h3, h4, h⟩ | ⟨h1, h2, h⟩ | ⟨h1, h2, h3, h4, h5, h6, h⟩ | ⟨h1, h2, h3, h4, h5, h6, h⟩ | ⟨n, h1, h⟩
  · refine .inl ⟨h1, h2, h3, h4, (congrArg Flow.finish h).trans ?_⟩
    rw [Flow.finish_go, State.endCmd_of_running (w := 0) (v := 0x010) (show StatusRegs.running 0 (writeBit 0 4 1) = _ by decide)]; rfl
  · exact .inr (.inl ⟨h1, h2, congrArg Flow.finish h⟩)
  · exact .inr (.inr (.inl ⟨h1, h2, h3, h4, h5, h6, congrArg Flow.finish h⟩))
  · refine .inr (.inr (.inr (.inl ⟨h1, h2, h3, h4, h5, h6, (congrArg Flow.finish h).trans ?_⟩)))
    rw [Flow.finish_go, State.endCmd_of_running (w := 0) (v := 0x010) (show StatusRegs.running 0 (writeBit 0 4 1) = _ by decide)]; rfl
  · refine .inr (.inr (.inr (.inr ⟨fun hr => ?_, n, ?_, congrArg Flow.finish h⟩)))
    · obtain ⟨⟨k1, k2⟩, k3⟩ := hr
      rcases h1 with ⟨a, -, b⟩ | ⟨a, b, -, c⟩ | ⟨a, ⟨-, c⟩ | ⟨-, c⟩⟩
      · exact Bool.false_ne_true (b.symm.trans (k1 a))
      · exact Bool.false_ne_true (c.symm.trans (k2 a b))
      · exact Bool.false_ne_true (c.symm.trans (k3 a).1)
      · exact Bool.false_ne_true (c.symm.trans (k3 a).2)
    · rcases h1 with ⟨-, rfl, b⟩ | ⟨-, -, rfl, b⟩ | ⟨-, ⟨rfl, b⟩ | ⟨rfl, b⟩⟩
      · exact State.hostRead_t0Us_of_not_held b
      · exact State.hostRead_missionId_of_not_held b
      · exact State.hostRead_scetInCoarse_of_not_held b
      · exact State.hostRead_scetInFine_of_not_held b

/-- What the time policy of a Data Field Header `d` leaves in the UTC group and at the port of `s` when it raises nothing. -/
def TimeResult (s : State) (d : DfhGroup) (t0v : BitVec 1) (t0 : InputReg 64) (u : UtcGroup) (eph : EphPort) : Prop :=
  (d.syncBit = 1 ∧ u = ⟨0, 0⟩ ∧ eph = s.eph) ∨
    (d.syncBit = 0 ∧ t0v = 1 ∧ t0.held = true ∧
      u = ⟨1, linearUtc s.cfg.usecRounding t0.value d.coarse d.fine⟩ ∧ eph = s.eph) ∨
    (d.syncBit = 0 ∧ t0v = 0 ∧ s.inp.missionKnown = 1 ∧ s.inp.missionId.held = true ∧
      (s.ephAnswer (ephRequest s.inp.missionId.value d.coarse d.fine)).ok = 1 ∧
      u = ⟨2, (s.ephAnswer (ephRequest s.inp.missionId.value d.coarse d.fine)).cal⟩ ∧
      eph = ⟨s.eph.answers.tail, ephRequest s.inp.missionId.value d.coarse d.fine :: s.eph.requests⟩)

/-- The kind written is one of the three. -/
theorem TimeResult.utcKind_ne {s : State} {d : DfhGroup} {t0v : BitVec 1} {t0 : InputReg 64} {u : UtcGroup} {eph : EphPort}
    (h : TimeResult s d t0v t0 u eph) : u.utcKind ≠ 3 := by
  rcases h with ⟨-, rfl, -⟩ | ⟨-, -, -, rfl, -⟩ | ⟨-, -, -, -, -, rfl, -⟩ <;> exact fun h => nomatch h

/-- The port is left alone, or one request is made, on the ephemeris path. -/
theorem TimeResult.port {s : State} {d : DfhGroup} {t0v : BitVec 1} {t0 : InputReg 64} {u : UtcGroup} {eph : EphPort}
    (h : TimeResult s d t0v t0 u eph) :
    eph = s.eph ∨ (t0v = 0 ∧ s.inp.missionKnown = 1 ∧ d.syncBit = 0 ∧
      eph = ⟨s.eph.answers.tail, ephRequest s.inp.missionId.value d.coarse d.fine :: s.eph.requests⟩) := by
  rcases h with ⟨-, -, h⟩ | ⟨-, -, -, -, h⟩ | ⟨h1, h2, h3, -, -, -, h⟩
  · exact .inl h
  · exact .inl h
  · exact .inr ⟨h2, h3, h1, h⟩

/-- What the time policy of the two header commands can do to a running command. -/
theorem dfhTime_running (t0v : BitVec 1) (t0 : InputReg 64) (s : State) (w : BitVec 1) (v : BitVec 9)
    (h : s.stat = .running w v) :
    (∃ u eph, TimeResult s s.dfh t0v t0 u eph ∧
      dfhTime t0v t0 s = .go { s with stat := .running w (writeBit v 4 1), utc := u, eph := eph }) ∨
    (s.dfh.syncBit = 0 ∧ t0v = 0 ∧ s.inp.missionKnown = 0 ∧
      dfhTime t0v t0 s = .ended { s with stat := .failure w 2 5 0 0 1 v }) ∨
    (s.dfh.syncBit = 0 ∧ t0v = 0 ∧ s.inp.missionKnown = 1 ∧ s.inp.missionId.held = true ∧
      (s.ephAnswer (ephRequest s.inp.missionId.value s.dfh.coarse s.dfh.fine)).ok = 0 ∧
      dfhTime t0v t0 s = .ended { s with
        stat := .failure w 2 5 0 0 2 v
        eph := ⟨s.eph.answers.tail, ephRequest s.inp.missionId.value s.dfh.coarse s.dfh.fine :: s.eph.requests⟩ }) ∨
    (s.dfh.syncBit = 0 ∧
      ∃ n, ((t0v = 1 ∧ n = 0x05 ∧ t0.held = false) ∨
          (t0v = 0 ∧ s.inp.missionKnown = 1 ∧ n = 0x02 ∧ s.inp.missionId.held = false)) ∧
        dfhTime t0v t0 s = .refuse (.noValueRegister n)) := by
  have b0 : ∀ x : BitVec 1, x ≠ 1 → x = 0 := by decide
  by_cases hs : s.dfh.syncBit = 1
  · refine .inl ⟨⟨0, 0⟩, s.eph, .inl ⟨hs, rfl, rfl⟩, ?_⟩
    rw [dfhTime, if_pos hs]
    exact congrArg Flow.go (State.setValid_of_running (s := { s with utc := ⟨0, 0⟩ }) h .utc 1)
  · rw [dfhTime, if_neg hs]
    replace hs := b0 _ hs
    rcases resolve_running (.holding s.dfh.coarse) (.holding s.dfh.fine) s.inp.missionId s.inp.missionKnown t0v t0 .dfh
      s w v h with ⟨h1, h2, h3, h4, h⟩ | ⟨h1, h2, h⟩ | ⟨h1, h2, h3, h4, h5, h6, h⟩ | ⟨h1, h2, h3, h4, h5, h6, h⟩ | ⟨n, h1, h⟩
    · exact .inl ⟨_, s.eph, .inr (.inl ⟨hs, h1, h2, rfl, rfl⟩), h⟩
    · exact .inr (.inl ⟨hs, h1, h2, h⟩)
    · exact .inr (.inr (.inl ⟨hs, h1, h2, h3, h6, h⟩))
    · exact .inl ⟨_, _, .inr (.inr ⟨hs, h1, h2, h3, h6, rfl, rfl⟩), h⟩
    · exact .inr (.inr (.inr ⟨hs, n, by simpa [InputReg.holding] using h1, h⟩))

/-- What DDFH can do. -/
theorem execDdfh_cases (s : State) :
    (s.inp.bufLen.toNat < 10 ∧ execDdfh s = .next { s with stat := .failure 0 1 5 80 s.availBits 0 0 }) ∨
    (10 ≤ s.inp.bufLen.toNat ∧ s.bufHolds 10 ∧
      ∃ u eph, TimeResult s (dfhFields s.buf 0) s.inp.t0Valid s.inp.t0Us u eph ∧
        execDdfh s = .next { s with stat := .success 0 0x018, dfh := dfhFields s.buf 0, utc := u, eph := eph }) ∨
    (10 ≤ s.inp.bufLen.toNat ∧ s.bufHolds 10 ∧ (dfhFields s.buf 0).syncBit = 0 ∧ s.inp.t0Valid = 0 ∧
      s.inp.missionKnown = 0 ∧
      execDdfh s = .next { s with stat := .failure 0 2 5 0 0 1 0x008, dfh := dfhFields s.buf 0 }) ∨
    (10 ≤ s.inp.bufLen.toNat ∧ s.bufHolds 10 ∧ (dfhFields s.buf 0).syncBit = 0 ∧ s.inp.t0Valid = 0 ∧
      s.inp.missionKnown = 1 ∧ s.inp.missionId.held = true ∧
      (s.ephAnswer (ephRequest s.inp.missionId.value (dfhFields s.buf 0).coarse (dfhFields s.buf 0).fine)).ok = 0 ∧
      execDdfh s = .next { s with
        stat := .failure 0 2 5 0 0 2 0x008
        dfh := dfhFields s.buf 0
        eph := ⟨s.eph.answers.tail,
          ephRequest s.inp.missionId.value (dfhFields s.buf 0).coarse (dfhFields s.buf 0).fine :: s.eph.requests⟩ }) ∨
    (10 ≤ s.inp.bufLen.toNat ∧ s.bufHolds 10 ∧ (dfhFields s.buf 0).syncBit = 0 ∧ ¬ s.timeInputsHeld ∧
      ∃ n, s.hostRead n = .refused (.noValueRegister n) ∧ execDdfh s = .refused (.noValueRegister n)) ∨
    (10 ≤ s.inp.bufLen.toNat ∧ ∃ a, a < 10 ∧ Memory.read s.buf a = none ∧ execDdfh s = .refused (.noValueByte a)) := by
  rcases gate_cases .dfh 10 80 rfl s.beginCmd (fun s => dfhTime s.inp.t0Valid s.inp.t0Us (s.decodeDfhFields 0))
    with ⟨hl, h⟩ | ⟨hl, hb, h⟩ | ⟨hl, a, ha, hr, h⟩
  · refine .inl ⟨hl, (congrArg Flow.finish h).trans ?_⟩
    rw [State.raise_of_running (w := 0) (v := 0) rfl]; rfl
  · refine .inr ?_
    rcases dfhTime_running s.inp.t0Valid s.inp.t0Us (s.beginCmd.decodeDfhFields 0) 0 0x008
      (by rw [State.decodeDfhFields_stat, State.beginCmd_stat]; decide)
      with ⟨u, eph, h1, h'⟩ | ⟨h1, h2, h3, h'⟩ | ⟨h1, h2, h3, h4, h5, h'⟩ | ⟨h1, n, h2, h'⟩
    · refine .inl ⟨hl, hb, u, eph, h1, (congrArg Flow.finish (h.trans h')).trans ?_⟩
      rw [Flow.finish_go, State.endCmd_of_running (w := 0) (v := 0x018) (show StatusRegs.running 0 (writeBit 8 4 1) = _ by decide)]
      rfl
    · exact .inr (.inl ⟨hl, hb, h1, h2, h3, congrArg Flow.finish (h.trans h')⟩)
    · exact .inr (.inr (.inl ⟨hl, hb, h1, h2, h3, h4, h5, congrArg Flow.finish (h.trans h')⟩))
    · refine .inr (.inr (.inr (.inl ⟨hl, hb, h1, fun hr => ?_, n, ?_, congrArg Flow.finish (h.trans h')⟩)))
      · rcases h2 with ⟨a, -, b⟩ | ⟨a, b, -, c⟩
        · exact Bool.false_ne_true (b.symm.trans (hr.1 a))
        · exact Bool.false_ne_true (c.symm.trans (hr.2 a b))
      · rcases h2 with ⟨-, rfl, b⟩ | ⟨-, -, rfl, b⟩
        · exact State.hostRead_t0Us_of_not_held b
        · exact State.hostRead_missionId_of_not_held b
  · exact .inr (.inr (.inr (.inr (.inr ⟨hl, a, ha, hr, congrArg Flow.finish h⟩))))

/-- The state of DPKT when its time policy runs. -/
theorem State.decodePacket_running (s : State) (w : BitVec 1) (h : s.stat = .running w 0) :
    s.decodePacket = { s with
      stat := .running w (writeBit 0x02F 6 s.inp.missionKnown)
      pid := pidFields s.buf 0, psc := pscFields s.buf 16, len := lenFields s.buf 32, dfh := dfhFields s.buf 48
      pay := ⟨16, s.inp.bufLen - 16⟩, pktMissionId := s.inp.missionId.value } := by
  have e1 (p : Nat) (v : BitVec 9) (s : State) (h : s.stat = .running w v) :
      s.decodePid p = { s with stat := .running w (writeBit v 0 1), pid := pidFields s.buf p } :=
    State.setValid_of_running (s := { s with pid := pidFields s.buf p }) h .pid 1
  have e2 (p : Nat) (v : BitVec 9) (s : State) (h : s.stat = .running w v) :
      s.decodePsc p = { s with stat := .running w (writeBit v 1 1), psc := pscFields s.buf p } :=
    State.setValid_of_running (s := { s with psc := pscFields s.buf p }) h .psc 1
  have e3 (p : Nat) (v : BitVec 9) (s : State) (h : s.stat = .running w v) :
      s.decodeLen p = { s with stat := .running w (writeBit v 2 1), len := lenFields s.buf p } :=
    State.setValid_of_running (s := { s with len := lenFields s.buf p }) h .len 1
  have e4 (p : Nat) (v : BitVec 9) (s : State) (h : s.stat = .running w v) :
      s.decodeDfhFields p = { s with stat := .running w (writeBit v 3 1), dfh := dfhFields s.buf p } :=
    State.setValid_of_running (s := { s with dfh := dfhFields s.buf p }) h .dfh 1
  have e5 (v : BitVec 9) (s : State) (h : s.stat = .running w v) :
      s.putPayload = { s with stat := .running w (writeBit v 5 1), pay := ⟨16, s.inp.bufLen - 16⟩ } :=
    State.setValid_of_running (s := { s with pay := ⟨16, s.inp.bufLen - 16⟩ }) h .pay 1
  have e6 (v : BitVec 9) (s : State) (h : s.stat = .running w v) :
      s.putMission = { s with stat := .running w (writeBit v 6 s.inp.missionKnown), pktMissionId := s.inp.missionId.value } :=
    State.setValid_of_running (s := { s with pktMissionId := s.inp.missionId.value }) h .mid s.inp.missionKnown
  have hv : writeBit (writeBit (writeBit (writeBit (writeBit (0 : BitVec 9) 0 1) 1 1) 2 1) 3 1) 5 1 = 0x02F := by decide
  rw [State.decodePacket, State.decodeSph, e1 0 0 s h, e2 16 _ _ rfl, e3 32 _ _ rfl]
  rw [e4 48 _ _ rfl]
  rw [e5 _ _ rfl]
  rw [e6 _ _ rfl]
  simp only [hv]

/-- The status registers at the end of a DPKT that has decoded everything: the length check is its last line. -/
def State.packetStatus (s : State) : StatusRegs :=
  if s.cfg.checkLength = true ∧ s.inp.bufLen.toNat - 6 ≠ (lenFields s.buf 32).pktLen.toNat then
    .failure (1 - s.inp.missionKnown) 3 6 (8 * (lenFields s.buf 32).pktLen.toNat) (8 * (s.inp.bufLen.toNat - 6)) 0
      (writeBit 0x03F 6 s.inp.missionKnown)
  else .success (1 - s.inp.missionKnown) (writeBit 0x0BF 6 s.inp.missionKnown)

/-- The start of DPKT: the prologue and the warning. -/
theorem State.beginPacket_eq (s : State) : s.beginCmd.missionWarning = { s with stat := .running (1 - s.inp.missionKnown) 0 } := by
  have b1 : ∀ x : BitVec 1, x ≠ 0 → x = 1 := by decide
  rw [State.missionWarning_eq]
  by_cases hk : s.inp.missionKnown = 0
  · rw [if_pos (by exact hk), hk, State.beginCmd_stat]
    show { s with stat := { StatusRegs.reset with status := writeBit 0 2 1 } } = _
    rw [show ({ StatusRegs.reset with status := writeBit 0 2 1 } : StatusRegs) = .running (1 - 0) 0 by decide]
  · rw [if_neg (by exact hk), b1 _ hk]
    show { s with stat := StatusRegs.reset } = _
    rw [show StatusRegs.reset = .running (1 - 1) 0 by decide]

/-- The end of DPKT, once everything is decoded: the length check and the packet bit. -/
theorem finishPacket_eq (s t : State) (hi : t.inp = s.inp) (hc : t.cfg = s.cfg) (hl : t.len = lenFields s.buf 32)
    (hs : t.stat = .running (1 - s.inp.missionKnown) (writeBit 0x03F 6 s.inp.missionKnown)) :
    ((checkPacketLength t).andThen fun s => .go (s.setValid .pkt 1)).finish = .next { t with stat := s.packetStatus } := by
  have hv : ∀ b : BitVec 1, writeBit (writeBit (0x03F : BitVec 9) 6 b) 7 1 = writeBit 0x0BF 6 b := by decide
  have h := checkPacketLength_cases t
  rw [hi, hc, hl] at h
  rcases h with ⟨h, hck⟩ | ⟨h1, h2, hck⟩
  · rw [hck, State.packetStatus, if_neg fun hn => hn.2 (h hn.1), Flow.andThen_go, Flow.finish_go, State.setValid_of_running hs, State.endCmd_of_running rfl]
    exact congrArg (fun v => Host.Outcome.next { t with stat := .success (1 - s.inp.missionKnown) v }) (hv _)
  · rw [hck, State.packetStatus, if_pos ⟨h1, h2⟩, Flow.andThen_ended, Flow.finish_ended, State.raise_of_running hs]; rfl

/-- What DPKT can do. -/
theorem execDpkt_cases (s : State) :
    (s.inp.bufLen.toNat < 16 ∧
      execDpkt s = .next { s with stat := .failure (1 - s.inp.missionKnown) 1 6 128 s.availBits 0 0 }) ∨
    (16 ≤ s.inp.bufLen.toNat ∧ s.bufHolds 16 ∧ (s.inp.missionKnown = 1 → s.inp.missionId.held = true) ∧
      ∃ u eph, TimeResult s (dfhFields s.buf 48) s.packetT0Valid s.packetT0 u eph ∧
        execDpkt s = .next { s with
          stat := s.packetStatus
          pid := pidFields s.buf 0, psc := pscFields s.buf 16, len := lenFields s.buf 32, dfh := dfhFields s.buf 48
          pay := ⟨16, s.inp.bufLen - 16⟩, pktMissionId := s.inp.missionId.value, utc := u, eph := eph }) ∨
    (16 ≤ s.inp.bufLen.toNat ∧ s.bufHolds 16 ∧ s.inp.t0Valid = 0 ∧ s.inp.missionKnown = 1 ∧ s.inp.missionId.held = true ∧
      (dfhFields s.buf 48).syncBit = 0 ∧
      (s.ephAnswer (ephRequest s.inp.missionId.value (dfhFields s.buf 48).coarse (dfhFields s.buf 48).fine)).ok = 0 ∧
      execDpkt s = .next { s with
        stat := .failure 0 2 5 0 0 2 0x06F
        pid := pidFields s.buf 0, psc := pscFields s.buf 16, len := lenFields s.buf 32, dfh := dfhFields s.buf 48
        pay := ⟨16, s.inp.bufLen - 16⟩, pktMissionId := s.inp.missionId.value
        eph := ⟨s.eph.answers.tail,
          ephRequest s.inp.missionId.value (dfhFields s.buf 48).coarse (dfhFields s.buf 48).fine :: s.eph.requests⟩ }) ∨
    (16 ≤ s.inp.bufLen.toNat ∧ s.inp.missionKnown = 1 ∧
      (s.inp.missionId.held = false ∨
        (s.inp.t0Valid = 1 ∧ s.inp.t0Us.held = false ∧ (dfhFields s.buf 48).syncBit = 0)) ∧
      ∃ n, s.hostRead n = .refused (.noValueRegister n) ∧ execDpkt s = .refused (.noValueRegister n)) ∨
    (16 ≤ s.inp.bufLen.toNat ∧ ∃ a, a < 16 ∧ Memory.read s.buf a = none ∧ execDpkt s = .refused (.noValueByte a)) := by
  have b1 : ∀ x : BitVec 1, x ≠ 0 → x = 1 := by decide
  have hx : execDpkt s = Flow.finish ((needBits .pkt 128 { s with stat := .running (1 - s.inp.missionKnown) 0 }).andThen
     fun s => (needBytes 16 s).andThen fun s =>
        (needHeld 0x02 (s.inp.missionKnown = 0 || s.inp.missionId.held) s).andThen fun s =>
          (dfhTime s.packetT0Valid s.packetT0 s.decodePacket).andThen fun s =>
            (checkPacketLength s).andThen fun s => .go (s.setValid .pkt 1)) := by
    rw [execDpkt, State.beginPacket_eq]
  rcases gate_cases .pkt 16 128 rfl { s with stat := .running (1 - s.inp.missionKnown) 0 } (fun s =>
        (needHeld 0x02 (s.inp.missionKnown = 0 || s.inp.missionId.held) s).andThen fun s =>
          (dfhTime s.packetT0Valid s.packetT0 s.decodePacket).andThen fun s =>
            (checkPacketLength s).andThen fun s => .go (s.setValid .pkt 1)) with ⟨hl, h⟩ | ⟨hl, hb, h⟩ | ⟨hl, a, ha, hr, h⟩
  · refine .inl ⟨hl, (hx.trans (congrArg Flow.finish h)).trans ?_⟩
    rw [State.raise_of_running (w := 1 - s.inp.missionKnown) (v := 0) rfl]; rfl
  · replace hx := hx.trans (congrArg Flow.finish h)
    refine .inr ?_
    rcases needHeld_cases 2 (s.inp.missionKnown = 0 || s.inp.missionId.held) { s with stat := .running (1 - s.inp.missionKnown) 0 }
      with ⟨hh, h⟩ | ⟨hh, h⟩
    · replace hx : execDpkt s = Flow.finish ((dfhTime s.packetT0Valid s.packetT0
          (State.decodePacket { s with stat := .running (1 - s.inp.missionKnown) 0 })).andThen fun s =>
            (checkPacketLength s).andThen fun s => .go (s.setValid .pkt 1)) := by
        rw [hx, h]; rfl
      have hm : s.inp.missionKnown = 1 → s.inp.missionId.held = true := by
        intro hk; rw [hk] at hh; exact hh
      rw [State.decodePacket_running _ (1 - s.inp.missionKnown) rfl] at hx
      have hv : ∀ b : BitVec 1, writeBit (writeBit (0x02F : BitVec 9) 6 b) 4 1 = writeBit 0x03F 6 b := by decide
      rcases dfhTime_running s.packetT0Valid s.packetT0 { s with
          stat := .running (1 - s.inp.missionKnown) (writeBit 0x02F 6 s.inp.missionKnown)
          pid := pidFields s.buf 0, psc := pscFields s.buf 16, len := lenFields s.buf 32, dfh := dfhFields s.buf 48
          pay := ⟨16, s.inp.bufLen - 16⟩, pktMissionId := s.inp.missionId.value } (1 - s.inp.missionKnown) _ rfl
        with ⟨u, eph, h1, h'⟩ | ⟨h1, h2, h3, h'⟩ | ⟨h1, h2, h3, h4, h5, h'⟩ | ⟨h1, n, h2, h'⟩
      · refine .inl ⟨hl, hb, hm, u, eph, h1, ?_⟩
        rw [hx, h', Flow.andThen_go]
        exact finishPacket_eq s _ rfl rfl rfl (congrArg (StatusRegs.running _) (hv _))
      · rw [State.packetT0Valid, if_pos (by exact h3)] at h2; exact absurd h2 (by decide)
      · have hv : s.inp.t0Valid = 0 := by
          rw [State.packetT0Valid, show s.inp.missionKnown = 1 from h3] at h2; exact h2
        refine .inr (.inl ⟨hl, hb, hv, h3, h4, h1, h5, ?_⟩)
        rw [hx, h', Flow.andThen_ended, Flow.finish_ended, show s.inp.missionKnown = 1 from h3]; rfl
      · refine .inr (.inr (.inl ⟨hl, ?_⟩))
        by_cases hk : s.inp.missionKnown = 0
        · exfalso
          rw [State.packetT0Valid, State.packetT0, if_pos hk, if_pos hk] at h2
          rcases h2 with ⟨-, -, h2⟩ | ⟨h2, -⟩
          · cases h2
          · exact absurd h2 (by decide)
        · rw [State.packetT0Valid, State.packetT0, if_neg hk, if_neg hk] at h2
          rcases h2 with ⟨h2, rfl, h3⟩ | ⟨-, -, rfl, h3⟩
          · exact ⟨b1 _ hk, .inr ⟨h2, h3, h1⟩, _, State.hostRead_t0Us_of_not_held h3, by rw [hx, h']; rfl⟩
          · exact ⟨b1 _ hk, .inl h3, _, State.hostRead_missionId_of_not_held h3, by rw [hx, h']; rfl⟩
    · simp only [Bool.or_eq_false_iff, decide_eq_false_iff_not] at hh
      refine .inr (.inr (.inl ⟨hl, b1 _ hh.1, .inl hh.2, 2, State.hostRead_missionId_of_not_held hh.2, ?_⟩))
      have hz : (decide (s.inp.missionKnown = 0) || s.inp.missionId.held) = false := by rw [hh.2, decide_eq_false hh.1]; rfl
      rw [hx]
      show Flow.finish (Flow.andThen (needHeld 2 (decide (s.inp.missionKnown = 0) || s.inp.missionId.held) _) _) = _
      rw [hz]; rfl
  · exact .inr (.inr (.inr (.inr ⟨hl, a, ha, hr, hx.trans (congrArg Flow.finish h)⟩)))

end Sys2Proof.Machine
end

