-- ==== Sys2Proof/Laws/PerInstr.lean ====
section
/-! SUPPORT. Statements made per instruction. Family `CodeRange`: the code of a well-formed command is reserved exactly when
the command is the reserved row (30_encoding R95, R99). -/

namespace Sys2Proof.Laws.CodeRange

/-- The code of `i` is 0x08 or more exactly when `i` is a reserved command. -/
def Statement (i : Instr) : Prop :=
  i.wellFormed = true → (8 ≤ (encode i).toNat ↔ ∃ code, i = .reserved code)

theorem clr : Statement .clr := by simp [Statement, encode]
theorem bfx : Statement .bfx := by simp [Statement, encode]
theorem dpid : Statement .dpid := by simp [Statement, encode]
theorem dpsc : Statement .dpsc := by simp [Statement, encode]
theorem dsph : Statement .dsph := by simp [Statement, encode]
theorem tres : Statement .tres := by simp [Statement, encode]
theorem ddfh : Statement .ddfh := by simp [Statement, encode]
theorem dpkt : Statement .dpkt := by simp [Statement, encode]
theorem reserved (code : BitVec 8) : Statement (.reserved code) := by simp [Statement, encode, Instr.wellFormed]

end Sys2Proof.Laws.CodeRange
end

