-- ==== Sys2Proof/Tests/Slice0.lean ====
section
/-! SUPPORT. Tests of single steps: expected values are those of spec/95_test_vectors.md (the vector is named in each test)
or of the rule named. -/

namespace Sys2Proof.Tests

-- One proof after another: each waits for the ones before it in any case, and a waiting thread costs memory.
set_option Elab.async false

open Sys2Proof Sys2Proof.Machine

/-- The state a run goes on in, if it does. -/
def nextOf (x : Host.Outcome State Fault Refusal) : Option State :=
  match x with
  | .next s => some s
  | .fault _ => none
  | .refused _ => none

/-- The fault a run stops with, if it does. -/
def faultOf {σ : Type} (x : Host.Outcome σ Fault Refusal) : Option Fault :=
  match x with
  | .next _ => none
  | .fault f => some f
  | .refused _ => none

/-- The refusal a run stops with, if it does. -/
def refusalOf {σ : Type} (x : Host.Outcome σ Fault Refusal) : Option Refusal :=
  match x with
  | .next _ => none
  | .fault _ => none
  | .refused r => some r

/-- The value a host read returns, if it does. -/
def valueOf (x : Host.Outcome Int Fault Refusal) : Option Int :=
  match x with
  | .next v => some v
  | .fault _ => none
  | .refused _ => none

/-- The reset state after `LOAD bs`. -/
def loaded (bs : List Byte) : State :=
  { State.reset with
    buf := Memory.ofBytes bs
    inp := { State.reset.inp with bufLen := BitVec.ofNat 32 bs.length } }

/-- `s` after `SET T0_US, t0` and `SET T0_VALID, 1`. -/
def withT0 (t0 : Int) (s : State) : State :=
  { s with inp := { s.inp with t0Valid := 1, t0Us := .holding (BitVec.ofInt 64 t0) } }

/-- `s` after `SET MISSION_ID, m` and `SET MISSION_KNOWN, 1`. -/
def withMission (m : Int) (s : State) : State :=
  { s with inp := { s.inp with missionKnown := 1, missionId := .holding (BitVec.ofInt 32 m) } }

/-- `s` after `SET SCET_IN_COARSE, c` and `SET SCET_IN_FINE, f`. -/
def withScet (c : BitVec 31) (f : BitVec 16) (s : State) : State :=
  { s with inp := { s.inp with scetInCoarse := .holding c, scetInFine := .holding f } }

/-- `s` where the ephemeris service is to answer `a` (`EPH -> ok, cal`, 30_encoding R102). -/
def withEph (a : EphAnswer) (s : State) : State := { s with eph := { s.eph with answers := [a] } }

/-- `s` after `SETWL ws`. -/
def withWl (ws : List (BitVec 8)) (s : State) : State :=
  { s with inp := { s.inp with
      wlCnt := BitVec.ofNat 5 ws.length
      wl := ws.zipIdx.foldl (fun v p => v.setIfInBounds p.2 (.holding p.1)) s.inp.wl } }

/-- The 20 bytes of S9, `PK` in spec/95_test_vectors.md. -/
def pkBytes : List Byte :=
  [0x09, 0xA1, 0xC0, 0x05, 0x00, 0x09, 0x10, 0x03, 0x19, 0x00, 0x00, 0x00, 0x01, 0xF4, 0x00, 0x00, 0xDE, 0xAD, 0xBE, 0xEF]

/-- S9's inputs (V-K1): the packet, mission -226, `t0` 2020-01-01T00:00:00.000000Z. -/
def packetState : State := withT0 1577836800000000 (withMission (-226) (loaded pkBytes))

/-- The ten bytes of V-D1. -/
def dfhBytes : List Byte := [0x10, 0x03, 0x19, 0x00, 0x00, 0x00, 0x01, 0xF4, 0x00, 0x00]

/-! ## Decoding and well-formedness: the codes of 30_encoding R95, written out bit by bit -/

theorem test_illformed_reserved : (Instr.reserved 0x07).wellFormed = false := by decide
theorem test_wellformed_reserved : (Instr.reserved 0x08).wellFormed = true := by decide

theorem test_decode_clr : decode 0b00000000 = .clr := by decide
theorem test_decode_bfx : decode 0b00000001 = .bfx := by decide
theorem test_decode_dpid : decode 0b00000010 = .dpid := by decide
theorem test_decode_dpsc : decode 0b00000011 = .dpsc := by decide
theorem test_decode_dsph : decode 0b00000100 = .dsph := by decide
theorem test_decode_tres : decode 0b00000101 = .tres := by decide
theorem test_decode_ddfh : decode 0b00000110 = .ddfh := by decide
theorem test_decode_dpkt : decode 0b00000111 = .dpkt := by decide
theorem test_decode_reserved_first : decode 0b00001000 = .reserved 0x08 := by decide
theorem test_decode_reserved_last : decode 0b11111111 = .reserved 0xFF := by decide
theorem test_decodeBytes_empty : decodeBytes [] = .error .noByte := by rfl
theorem test_decodeTableWord_dpkt : decodeTableWord 8 0x07 = some .dpkt := by decide

/-! ## CLR and reserved codes -/

/-- V-C7 then CLR: DONE only, nothing valid. -/
theorem test_clr : (nextOf (exec .clr packetState)).map (fun t => (t.stat.status, t.stat.valid, t.buf, t.inp))
    = some (1, 0, packetState.buf, packetState.inp) := by decide +kernel

/-- V-C4. -/
theorem test_reserved : (nextOf (exec (.reserved 0xFF) State.reset)).map (fun t => (t.stat.status, t.stat.errCode, t.stat.errUnit, t.stat.valid))
    = some (3, 4, 0, 0) := by decide

/-! ## BFX -/

/-- V-B4: an 8-bit field over a byte boundary. -/
theorem test_bfx_straddles : (nextOf (exec .bfx (withWl [4, 8, 4] (loaded [0xA5, 0xC3])))).map
    (fun t => (t.stat.status, t.stat.valid, t.res.bfxCnt, t.res.bfx.toList.take 3)) = some (1, 0x100, 3, [10, 92, 3]) := by
  decide +kernel

/-- V-B17: a zero width is found before the short buffer. -/
theorem test_bfx_bad_width : (nextOf (exec .bfx (withWl [8, 0] (loaded [])))).map
    (fun t => (t.stat.errCode, t.stat.errUnit, t.stat.errReqBits, t.stat.errAvailBits, t.stat.valid)) = some (5, 1, 1, 0, 0) := by
  decide +kernel

/-! ## DPID, DPSC, DSPH -/

/-- V-P1. -/
theorem test_dpid : (nextOf (exec .dpid (loaded [0x09, 0xA1]))).map (fun t => (t.pid, t.stat.valid))
    = some (⟨0, 0, 1, 417, 26, 1⟩, 1) := by decide +kernel

/-- V-P10. -/
theorem test_dpid_short : (nextOf (exec .dpid (loaded [0x09]))).map (fun t => t.stat)
    = some ⟨3, 1, 2, 16, 8, 0, 0⟩ := by decide +kernel

/-- V-S8. -/
theorem test_dpsc : (nextOf (exec .dpsc (loaded [0x7F, 0xFF]))).map (fun t => (t.psc, t.stat.valid))
    = some (⟨1, 16383⟩, 2) := by decide +kernel

/-- V-H2: the length does not wrap. -/
theorem test_dsph_no_wrap : (nextOf (exec .dsph (loaded [0xFF, 0xFF, 0xFF, 0xFF, 0xFF, 0xFF]))).map
    (fun t => (t.pid, t.psc, t.len, t.stat.valid)) = some (⟨7, 1, 1, 2047, 127, 15⟩, ⟨3, 16383⟩, ⟨65535, 65536⟩, 7) := by
  decide +kernel

/-- V-H4: byte 4 is the high byte. -/
theorem test_dsph_byte_order : (nextOf (exec .dsph (loaded [0x09, 0xA1, 0xC0, 0x05, 0x01, 0x00]))).map (fun t => t.len)
    = some ⟨256, 257⟩ := by decide +kernel

/-! ## TRES -/

/-- V-T8: an exact tie with an odd quotient rounds up. -/
theorem test_tres_half_even_tie : (nextOf (exec .tres (withT0 1704067200000000 (withScet 0 1536 State.reset)))).map
    (fun t => (t.stat.valid, t.utc.utcKind, t.utc.utcVal.toInt)) = some (0x010, 1, 1704067200023438) := by decide +kernel

/-- V-T20: the service's answer is copied, whatever it is; the request carries 5 digits. -/
theorem test_tres_ephemeris : (nextOf (exec .tres (withEph ⟨1, BitVec.ofInt 64 (-1)⟩ (withMission (-226) (withScet 1 2 State.reset))))).map
    (fun t => (t.stat.valid, t.utc.utcKind, t.utc.utcVal.toInt, t.eph.requests, t.eph.answers))
    = some (0x010, 2, -1, [⟨BitVec.ofInt 32 (-226), 1, 2, 5⟩], []) := by decide +kernel

/-- V-T13 under `truncate`. -/
theorem test_elapsed_truncate : elapsedUs .truncate 2147483647 65535 = 2147483647999984 := by decide +kernel

/-- V-T9: an exact tie with an even quotient stays. -/
theorem test_rdiv_even_tie : rdiv .halfEven (2560 * 15625) 1024 = 39062 := by decide

/-! ## DDFH -/

/-- V-D1 with all spare bits 1 (V-D2). -/
theorem test_ddfh_spares : (nextOf (exec .ddfh (withT0 1577836800000000
    (loaded [0x9F, 0x03, 0x19, 0x00, 0x00, 0x00, 0x01, 0xF4, 0x00, 0x00])))).map
    (fun t => (t.dfh, t.utc.utcKind, t.utc.utcVal.toInt, t.stat.valid))
    = some (⟨1, 3, 25, 0, 0, 1, 500, 0⟩, 1, 1577837300000000, 0x018) := by decide +kernel

/-- V-D6: the header fields survive a `TIME_CONVERSION_ERROR`. -/
theorem test_ddfh_unknown_mission : (nextOf (exec .ddfh (loaded dfhBytes))).map (fun t => (t.dfh, t.stat))
    = some (⟨1, 3, 25, 0, 0, 1, 500, 0⟩, ⟨3, 2, 5, 0, 0, 1, 0x008⟩) := by decide +kernel

/-! ## DPKT -/

/-- V-K1 (S9). -/
theorem test_dpkt :
    (nextOf (exec .dpkt packetState)).map (fun t => (t.stat, t.pid, t.psc, t.len))
      = some (⟨1, 0, 0, 0, 0, 0, 0x0FF⟩, ⟨0, 0, 1, 417, 26, 1⟩, ⟨3, 5⟩, ⟨9, 10⟩) ∧
    (nextOf (exec .dpkt packetState)).map (fun t => (t.dfh, t.pay, t.utc.utcVal.toInt, t.pktMissionId.toInt))
      = some (⟨1, 3, 25, 0, 0, 1, 500, 0⟩, ⟨16, 4⟩, 1577837300000000, -226) := by decide +kernel

/-- V-K12: with `CHECK_LENGTH = 1` the S9 packet is inconsistent, last of all checks. -/
theorem test_dpkt_consistency : (nextOf (exec .dpkt
    { packetState with cfg := { Config.defaults with checkLength := true } })).map (fun t => (t.stat, t.utc.utcVal.toInt))
    = some (⟨3, 3, 6, 80, 112, 0, 0x07F⟩, 1577837300000000) := by decide +kernel

/-! ## Host moves -/

/-- V-C5: DPKT as the first command after reset. -/
theorem test_step_dpkt_at_reset : (nextOf (step (State.reset.withFetchWord 8 0x07))).map (fun t => t.stat)
    = some ⟨7, 1, 6, 128, 0, 0, 0⟩ := by decide +kernel

/-- `SET T0_US` of P1 (register 0x05, signed 64 bits). -/
theorem test_step_set : (nextOf (step { State.reset with host := [.writeReg 0x05 (-1000000)] })).map
    (fun t => (t.inp.t0Us.held, t.inp.t0Us.value.toInt, t.host)) = some (true, -1000000, []) := by decide +kernel

/-- `EXPECT APID invalid` of P2: reading it is a fault (10_state R39). -/
theorem test_step_read_invalid : faultOf (step { State.reset with host := [.readReg 0x33] }) = some (.invalidOutput 0x33) := by
  decide +kernel

/-- `EXPECT VALID = 0` after reset. -/
theorem test_step_read_valid : (nextOf (step { State.reset with host := [.readReg 0x26] })).map (fun t => t.rdata)
    = some (some 0) := by decide +kernel

/-- Register 0x09 is in no row of 10_state section 10. -/
theorem test_step_unimplemented : refusalOf (step { State.reset with host := [.writeReg 0x09 0] })
    = some (.unimplementedRegister 0x09) := by decide +kernel

/-- The least `T0_US` is legal and one less is not (10_state R31). -/
theorem test_step_t0_range : refusalOf (step { withT0 0 State.reset with host := [.writeReg 0x05 (-62135596800000001)] })
    = some .t0OutOfRange := by decide +kernel

/-- The transactions of `LOAD` and `SETWL` (30_encoding R102). -/
theorem test_load_transactions : loadActions [0xA5, 0xC3] = [.writeByte 0 0xA5, .writeByte 1 0xC3, .writeReg 0x01 2] := by decide
theorem test_setwl_transactions : setWlActions [4, 8]
    = [.writeReg 0x10 4, .writeReg 0x11 8, .writeReg 0x08 2] := by decide

/-! ## Calendar (spec/95_test_vectors.md, "Calendar") -/

theorem test_days_from_civil : daysFromCivil ⟨2000, 2, 29⟩ = 11016 := by decide +kernel
theorem test_civil_from_days : civilFromDays (-1) = ⟨1969, 12, 31⟩ := by decide +kernel
theorem test_t0_of_civil : t0OfCivil ⟨2024, 1, 1⟩ 0 0 0 0 = 1704067200000000 := by decide +kernel

/-- `iso(1, -1)` is 1969-12-31T23:59:59.999999Z. -/
theorem test_iso_before_epoch : iso 1 (-1) = some ['1', '9', '6', '9', '-', '1', '2', '-', '3', '1', 'T', '2', '3', ':', '5', '9',
    ':', '5', '9', '.', '9', '9', '9', '9', '9', '9', 'Z'] := by decide +kernel

/-- The sentinel has five fraction digits (42_time_resolver R164). -/
theorem test_iso_sentinel : iso 0 0 = some ['1', '9', '7', '0', '-', '0', '1', '-', '0', '1', 'T', '0', '0', ':', '0', '0',
    ':', '0', '0', '.', '0', '0', '0', '0', '0', 'Z'] := by decide +kernel

/-! ## Witnesses: for each statement with hypotheses, a concrete state and operands that meet all of them, at the boundary
values of each clause -/

/-- A host write of code `w` to `CMD` as the only move left. -/
def cmdState (w : Nat) : State := State.reset.withFetchWord 8 w

/-- V-T19's inputs: an ephemeris conversion of mission -226, answered by `a`. -/
def ephTresState (a : EphAnswer) : State := withEph a (withMission (-226) (withScet 1 2 State.reset))

/-- V-D7 and V-D8's inputs: a synchronized header of mission 5 without `t0`, answered by `a`. -/
def ephDfhState (a : EphAnswer) : State := withEph a (withMission 5 (loaded dfhBytes))

/-- V-K4 and V-K5's inputs: the S9 packet of mission -226 without `t0`, answered by `a`. -/
def ephPacketState (a : EphAnswer) : State := withEph a (withMission (-226) (loaded pkBytes))

/-- V-K6's inputs: the S9 packet with the synchronization bit set. -/
def unsyncPacketState : State := withT0 1577836800000000 (withMission (-226) (loaded (pkBytes.set 10 0x80)))

/-- The reset state with a host of `moves`. -/
def hostState (moves : List HostAction) : State := { State.reset with host := moves }

theorem witness_DecodeReadsTheCodeMap : 8 ≤ (0x08 : BitVec 8).toNat ∧ 8 ≤ (0xFF : BitVec 8).toNat := by decide
theorem witness_DecodeAndEncodeAgree : Instr.dpkt.wellFormed = true ∧ (Instr.reserved 0xFF).wellFormed = true := by decide
theorem witness_StepRunsTheCommandWrittenToCmd :
    (cmdState 0xFF).host = .writeReg 0x00 (0xFF : BitVec 8).toNat :: [] ∧
      (cmdState 0).host = .writeReg 0x00 (0x00 : BitVec 8).toNat :: [] := by decide
theorem witness_PlacedWordRunsNext : 0 < 256 ∧ 255 < 256 := by decide
theorem witness_IdleStepHoldsTheState : State.reset.host = [] := by decide

/-- The last width entry; and a read-only register, in a well-formed configuration, written with a value too wide for it. -/
theorem witness_HostWritesChangeInputsOnly :
    ((nextOf (State.reset.hostWrite 0x1F 255)).map fun t => t.wlEntry 15) = some ⟨255, true⟩ ∧
      State.reset.cfg.WellFormed ∧ (∀ n ∈ [0x20, 0x26, 0x30, 0x50, 0x6F], regOfNumber State.reset.cfg n ≠ none) ∧
      nextOf (State.reset.hostWrite 0x20 8) = some State.reset := by decide +kernel

/-- The first and the last `HW` register after `CMD`, and a neighbour that stays as it is. -/
theorem witness_HostReadsBackWhatItWrote :
    State.reset.cfg.WellFormed ∧ (nextOf (State.reset.hostWrite 0x01 65542)).isSome = true ∧
      ((nextOf (State.reset.hostWrite 0x1F 255)).map fun t => (valueOf (t.hostRead 0x1F), refusalOf (t.hostRead 0x1E)))
        = some (some 255, some (.noValueRegister 0x1E)) := by decide +kernel

/-- The two ends of the range of every `HW` register, and for the two registers with a condition a state that meets it. -/
theorem witness_LegalHostWritesComplete :
    State.reset.cfg.WellFormed ∧
      (∀ p ∈ [(0x01, (0 : Int)), (0x01, 65542), (0x02, -2147483648), (0x02, 2147483647), (0x03, 0), (0x04, 0), (0x04, 1),
          (0x05, -9223372036854775808), (0x05, 9223372036854775807), (0x06, 0), (0x06, 2147483647), (0x07, 0), (0x07, 65535),
          (0x08, 0), (0x08, 31), (0x10, 0), (0x1F, 255)], LegalWrite State.reset p.1 p.2) ∧
      LegalWrite (withMission (-226) State.reset) 0x03 1 ∧
      (LegalWrite (withT0 (-62135596800000000) State.reset) 0x04 1 ∧ LegalWrite (withT0 253402300799999999 State.reset) 0x04 1) ∧
      LegalWrite (withT0 0 State.reset) 0x05 (-62135596800000000) ∧
      LegalWrite (withT0 0 State.reset) 0x05 253402300799999999 := by
  refine ⟨?_, ?_, ?_, ⟨?_, ?_⟩, ?_, ?_⟩ <;> decide +kernel

/-- Register numbers in and beside the gaps of the map, the least `BUF_LEN` that is too large, and the values next to the
range of `T0_US`, written to it and held by it. -/
theorem witness_IllegalHostWritesAreRefused :
    ((∀ n ∈ [0x09, 0x0F, 0x27, 0x2F, 0x3A, 0x4D, 0x51, 0x70], regOfNumber State.reset.cfg n = none) ∧
        (State.reset.cfg.bufMax : Int) < 65543 ∧ (65543 : Int) < 2 ^ 32) ∧
      (∀ v ∈ [(-62135596800000001 : Int), 253402300800000000],
        ((withT0 0 State.reset).inp.t0Valid = 1 ∧ ¬ t0InRange v ∧ fitsSigned 64 v) ∧
          (withT0 v State.reset).inp.t0Us.held = true ∧ ¬ t0InRange (withT0 v State.reset).inp.t0Us.value.toInt) ∧
      State.reset.inp.missionId.held = false := by decide +kernel

/-- The values next to the range of every register that the host writes: -1 and one too many for each unsigned one, one too
few and one too many for each signed one. -/
theorem witness_IllegalHostWritesAreRefused_width :
    (∀ v ∈ [(-1 : Int), 256], ¬ fitsUnsigned 8 v) ∧ (∀ v ∈ [(-1 : Int), 2 ^ 32], ¬ fitsUnsigned 32 v) ∧
      (∀ v ∈ [(-2147483649 : Int), 2147483648], ¬ fitsSigned 32 v) ∧ (∀ v ∈ [(-1 : Int), 2], ¬ fitsUnsigned 1 v) ∧
      (∀ v ∈ [(-9223372036854775809 : Int), 9223372036854775808], ¬ fitsSigned 64 v) ∧
      (∀ v ∈ [(-1 : Int), 2147483648], ¬ fitsUnsigned 31 v) ∧ (∀ v ∈ [(-1 : Int), 65536], ¬ fitsUnsigned 16 v) ∧
      (∀ v ∈ [(-1 : Int), 32], ¬ fitsUnsigned (wlCntWidth State.reset.cfg) v) ∧
      State.reset.cfg.WellFormed ∧ 0x1F < 0x10 + State.reset.cfg.wlMax := by decide +kernel

/-- The two ends of every gap of the map, at the default parameters and at the least `WL_MAX`. -/
theorem witness_UnimplementedNumbersAreRefused :
    ∀ p ∈ [(Config.defaults, [0x70, 255]), ({ Config.defaults with wlMax := 9 }, [0x19, 0x1F, 0x69, 255])], p.1.WellFormed ∧
      ∀ n ∈ [0x09, 0x0F, 0x27, 0x2F, 0x3A, 0x3F, 0x4D, 0x4F, 0x51, 0x5F] ++ p.2,
        refusalOf (({ State.reset with cfg := p.1 } : State).hostRead n) = some (.unimplementedRegister n) := by
  decide +kernel

theorem witness_BufferByteReadsBack : 0 < State.reset.cfg.bufMax ∧ 65541 < State.reset.cfg.bufMax ∧ (1 : Nat) ≠ 0 := by decide

/-- The first and last register of every group, at reset; and after V-B4, which gives three results, the first and the last
number that holds none, beside the last that holds one. -/
theorem witness_InvalidGroupsCannotBeRead :
    State.reset.cfg.WellFormed ∧ (∀ g ∈ [Group.pid, .psc, .len, .dfh, .utc, .mid, .pay, .bfx], State.reset.isValid g = false) ∧
      (∀ n ∈ [0x30, 0x35, 0x36, 0x37, 0x38, 0x39, 0x40, 0x47, 0x48, 0x49, 0x4A, 0x4B, 0x4C, 0x50, 0x60, 0x6F],
        faultOf (State.reset.hostRead n) = some (.invalidOutput n)) ∧
      (nextOf (exec .bfx (withWl [4, 8, 4] (loaded [0xA5, 0xC3])))).map (fun t => (t.isValid .bfx, t.res.bfxCnt,
          [0x62, 0x63, 0x6F].map fun n => (valueOf (t.hostRead n), faultOf (t.hostRead n))))
        = some (true, 3, [(some 3, none), (none, some (.invalidOutput 0x63)), (none, some (.invalidOutput 0x6F))]) := by
  decide +kernel

/-- V-K1 makes every group but BFX valid and V-B4 makes BFX valid; a register of each end of each group is read. -/
theorem witness_OutputsReadAsTheirRegisters :
    packetState.cfg.WellFormed ∧
      (nextOf (exec .dpkt packetState)).map (fun t =>
          ([Group.pid, .psc, .len, .dfh, .utc, .mid, .pay].map t.isValid,
            [0x30, 0x35, 0x36, 0x37, 0x38, 0x39, 0x40, 0x47, 0x48, 0x49, 0x4A, 0x4B, 0x4C].map fun n => valueOf (t.hostRead n)))
        = some ([true, true, true, true, true, true, true],
          [some 0, some 1, some 3, some 5, some 9, some 10, some 1, some 0, some 1, some 1577837300000000, some (-226), some 16,
            some 4]) ∧
      (nextOf (exec .bfx (withWl [4, 8, 4] (loaded [0xA5, 0xC3])))).map (fun t =>
          (t.isValid .bfx, [0x50, 0x60, 0x62].map fun n => valueOf (t.hostRead n)))
        = some (true, [some 3, some 10, some 3]) := by decide +kernel

/-- Registers that hold a value and registers that hold none, the first and the last width entry among them. -/
theorem witness_InputsReadAsTheirRegisters :
    0 < State.reset.cfg.wlMax ∧ 15 < State.reset.cfg.wlMax ∧
      [0x01, 0x02, 0x05, 0x06, 0x07, 0x08, 0x10].map (fun n =>
          valueOf ((withWl [8] (withScet 100 5 packetState)).hostRead n))
        = [some 20, some (-226), some 1577836800000000, some 100, some 5, some 1, some 8] ∧
      [0x00, 0x02, 0x05, 0x06, 0x07, 0x10, 0x1F].map (fun n => refusalOf (State.reset.hostRead n))
        = [some .commandRead, some (.noValueRegister 0x02), some (.noValueRegister 0x05), some (.noValueRegister 0x06),
          some (.noValueRegister 0x07), some (.noValueRegister 0x10), some (.noValueRegister 0x1F)] := by decide +kernel

/-- A read of a register and of a byte that answers a value, a fault and a refusal, and a write of each kind. -/
theorem witness_ReadAndWriteMovesInAStep :
    (valueOf ((hostState [.readReg 0x26]).hostRead 0x26) = some 0 ∧
        faultOf ((hostState [.readReg 0x30]).hostRead 0x30) = some (.invalidOutput 0x30) ∧
        refusalOf ((hostState [.readReg 0x02]).hostRead 0x02) = some (.noValueRegister 0x02)) ∧
      (valueOf ((loaded [0xA5]).hostReadByte 0) = some 165 ∧
        faultOf (State.reset.hostReadByte 65542) = some (.outsideBuffer 65542) ∧
        refusalOf (State.reset.hostReadByte 65541) = some (.noValueByte 65541)) ∧
      (nextOf (step (hostState [.writeByte 65541 0xA5]))).map (fun t => (valueOf (t.hostReadByte 65541), t.host))
        = some (some 165, []) ∧
      (nextOf (step (hostState [.writeReg 0x01 20]))).map (fun t => (valueOf (t.hostRead 0x01), t.host))
        = some (some 20, []) := by decide +kernel

/-- A register with a reset value, one without, and one of no row. -/
theorem witness_ResetReadsAsTheSpecSays :
    valueOf (State.reset.hostRead 0x26) = some 0 ∧ refusalOf (State.reset.hostRead 0x02) = some (.noValueRegister 0x02) ∧
      refusalOf (State.reset.hostRead 0x27) = some (.unimplementedRegister 0x27) := by decide +kernel

theorem witness_ResetMoveGivesTheResetState : (hostState [.reset, .readReg 0x26]).host = .reset :: [.readReg 0x26] := by decide
theorem witness_GetbitsPlacesEachStreamBit : (0 < 31 ∧ 30 < 31) ∧ getbits (Memory.ofBytes [0x00, 0x7F, 0xFF, 0xFF, 0xFF]) 9 31 = 2147483647 := by
  decide +kernel
theorem witness_FieldsAreIndependentAndSplit :
    ∀ j < 8, sbit (Memory.ofBytes [0xA5, 0x00]) (0 + j) = sbit (Memory.ofBytes [0xA5, 0xFF]) (0 + j) := by decide +kernel
theorem witness_FieldsLieBackToBack : 0 < pidWidths.length ∧ 3 < pidWidths.length := by decide

theorem witness_ReservedCodesAreIllegalCommands : 8 ≤ (0x08 : BitVec 8).toNat ∧ 8 ≤ (0xFF : BitVec 8).toNat := by decide
theorem witness_ClrClearsStatusAndOutputs : (nextOf (exec .clr packetState)).isSome = true := by decide +kernel

/-- V-B4 (three fields), V-B10 (an exact fit) and V-B13 (an empty list and buffer). -/
theorem witness_BfxExtractsTheWidthList :
    ∀ s ∈ [withWl [4, 8, 4] (loaded [0xA5, 0xC3]), withWl [8] (loaded [0xFF]), State.reset],
      s.cfg.WellFormed ∧ s.widthsLegal ∧ s.widthSum ≤ s.availBits ∧ s.bufHolds ((s.widthSum + 7) / 8) := by decide +kernel

/-- V-B16 (count 17), and for the second clause V-B17 (a zero entry) and V-B15 (an entry of 65). -/
theorem witness_BfxRejectsABadWidthList :
    (let s : State := { State.reset with inp := { State.reset.inp with wlCnt := 17 } }; s.cfg.wlMax < s.inp.wlCnt.toNat) ∧
      ∀ w ∈ [(0 : BitVec 8), 65], let s := withWl [8, w] (loaded []);
        s.inp.wlCnt.toNat ≤ s.cfg.wlMax ∧
          (∀ q ∈ s.widthEntries.take 1, q.held = true ∧ q.value ≠ 0 ∧ q.value.toNat ≤ s.cfg.fieldMax) ∧
          s.widthEntries[1]? = some (.holding w) ∧ (w = 0 ∨ s.cfg.fieldMax < w.toNat) := by decide +kernel

/-- V-B12 (one bit short), and the longest buffer too short for each other command. -/
theorem witness_ShortBuffersFailWhole :
    ((withWl [9] (loaded [0xFF])).widthsLegal ∧ (withWl [9] (loaded [0xFF])).availBits < (withWl [9] (loaded [0xFF])).widthSum) ∧
      (loaded (pkBytes.take 1)).inp.bufLen.toNat < 2 ∧ (loaded (pkBytes.take 5)).inp.bufLen.toNat < 6 ∧
      (loaded (pkBytes.take 9)).inp.bufLen.toNat < 10 ∧ (loaded (pkBytes.take 15)).inp.bufLen.toNat < 16 := by decide +kernel

theorem witness_DpidDecodesThePacketId :
    2 ≤ (loaded [0x09, 0xA1]).inp.bufLen.toNat ∧ (loaded [0x09, 0xA1]).bufStarts [0x09, 0xA1] := by decide +kernel
theorem witness_DpscDecodesTheSequenceControl :
    2 ≤ (loaded [0xBF, 0xFE]).inp.bufLen.toNat ∧ (loaded [0xBF, 0xFE]).bufStarts [0xBF, 0xFE] := by decide +kernel
theorem witness_DsphDecodesTheHeader :
    6 ≤ (loaded pkBytes).inp.bufLen.toNat ∧ (loaded pkBytes).bufStarts [0x09, 0xA1, 0xC0, 0x05, 0x00, 0x09] := by decide +kernel

theorem witness_MicrosecondsRoundAsStated : 0 < 1024 ∧ 2 * (1536 * 15625 % 1024) = 1024 := by decide
theorem witness_LinearSumIsExactInRange :
    t0InRange (BitVec.ofInt 64 (-62135596800000000)).toInt ∧ t0InRange (BitVec.ofInt 64 253402300799999999).toInt := by
  decide +kernel
theorem witness_TresLinearAddsElapsedTime :
    let s := withT0 1704067200000000 (withScet 100 0 State.reset)
    s.inp.t0Valid = 1 ∧ s.inp.t0Us.held = true ∧ s.inp.scetInCoarse.held = true ∧ s.inp.scetInFine.held = true ∧
      t0InRange s.inp.t0Us.value.toInt := by decide +kernel

/-- V-C6 for the first part; V-T19 and V-T21 for the two answers of the second. -/
theorem witness_TresEphemerisAsksTheService :
    (State.reset.inp.t0Valid = 0 ∧ State.reset.inp.missionKnown = 0) ∧
      ∀ a ∈ [(⟨1, 170406720012345⟩ : EphAnswer), ⟨0, 0⟩], let s := ephTresState a;
        s.inp.t0Valid = 0 ∧ s.inp.missionKnown = 1 ∧ s.inp.missionId.held = true ∧ s.inp.scetInCoarse.held = true ∧
          s.inp.scetInFine.held = true ∧ (s.ephAnswer ⟨BitVec.ofInt 32 (-226), 1, 2, 5⟩).ok = a.ok := by decide +kernel

theorem witness_DdfhDecodesTheNamedFields :
    let s := withT0 1577836800000000 (loaded dfhBytes)
    10 ≤ s.inp.bufLen.toNat ∧ s.bufStarts [0x10, 0x03, 0x19, 0x00, 0x00, 0x00, 0x01, 0xF4, 0x00, 0x00] ∧
      CommandReady .ddfh s := by
  simp only [CommandReady]
  decide +kernel
theorem witness_DdfhUnsynchronizedGivesTheSentinel :
    let s := loaded [0x10, 0x03, 0x19, 0x00, 0x80, 0x00, 0x01, 0xF4, 0x00, 0x00]
    10 ≤ s.inp.bufLen.toNat ∧ s.bufHolds 10 ∧ (Memory.byteAt s.buf 4).getLsbD 7 = true := by decide +kernel
theorem witness_DdfhSynchronizedLinear :
    let s := withT0 1577836800000000 (loaded dfhBytes)
    10 ≤ s.inp.bufLen.toNat ∧ s.bufHolds 10 ∧ (Memory.byteAt s.buf 4).getLsbD 7 = false ∧ s.inp.t0Valid = 1 ∧
      s.inp.t0Us.held = true ∧ t0InRange s.inp.t0Us.value.toInt := by decide +kernel

/-- V-D6 for an unknown mission; V-D7 and V-D8 for the two answers. -/
theorem witness_DdfhEphemerisAndItsErrors :
    (let s := loaded dfhBytes;
      10 ≤ s.inp.bufLen.toNat ∧ s.bufHolds 10 ∧ (Memory.byteAt s.buf 4).getLsbD 7 = false ∧ s.inp.t0Valid = 0 ∧
        s.inp.missionKnown = 0) ∧
      ∀ a ∈ [(⟨0, 0⟩ : EphAnswer), ⟨1, 157783730000000⟩], let s := ephDfhState a;
        10 ≤ s.inp.bufLen.toNat ∧ s.bufHolds 10 ∧ (Memory.byteAt s.buf 4).getLsbD 7 = false ∧ s.inp.t0Valid = 0 ∧
          s.inp.missionKnown = 1 ∧ s.inp.missionId.held = true ∧ (s.ephAnswer ⟨5, 500, 0, 5⟩).ok = a.ok ∧
          (dfhFields s.buf 0).coarse = 500 ∧ (dfhFields s.buf 0).fine = 0 := by decide +kernel

/-- V-K1 (synchronized) and V-K6 (not). -/
theorem witness_DpktDecodesAKnownMission :
    ∀ s ∈ [packetState, unsyncPacketState], 16 ≤ s.inp.bufLen.toNat ∧ s.bufHolds 16 ∧ s.inp.missionKnown = 1 ∧
      s.inp.missionId.held = true ∧ s.inp.t0Valid = 1 ∧ s.inp.t0Us.held = true ∧ t0InRange s.inp.t0Us.value.toInt ∧
      s.cfg.checkLength = false := by decide +kernel

/-- V-K2 and V-K3: without and with a `t0` of the host's; both values of `CHECK_LENGTH`, with a packet whose length differs
(V-K12's) and one whose length agrees (V-K13's), and an unsynchronized one. -/
theorem witness_DpktUnknownMissionForcesTheSentinelEpoch :
    ∀ c ∈ [true, false], ∀ s ∈ [loaded pkBytes, withT0 1577836800000000 (loaded pkBytes), loaded (pkBytes.set 5 0x0D),
        loaded (pkBytes.set 10 0x80)],
      let s : State := { s with cfg := { Config.defaults with checkLength := c } };
      16 ≤ s.inp.bufLen.toNat ∧ s.bufHolds 16 ∧ s.inp.missionKnown = 0 ∧
        (s.inp.bufLen.toNat - 6 = (lenFields s.buf 32).pktLen.toNat ↔ s.buf = Memory.ofBytes (pkBytes.set 5 0x0D)) := by
  decide +kernel

/-- V-K4 (synchronized) and V-K7 (not), and both with a length that `CHECK_LENGTH = 1` accepts. -/
theorem witness_DpktWithoutEpochCopiesTheAnswer :
    ∀ p ∈ [(pkBytes, (0 : BitVec 1), false), (pkBytes.set 10 0x80, 1, false), (pkBytes.set 5 0x0D, 0, true),
        ((pkBytes.set 5 0x0D).set 10 0x80, 1, true)],
      let s : State := { withEph ⟨1, 157783730012345⟩ (withMission (-226) (loaded p.1)) with
        cfg := { Config.defaults with checkLength := p.2.2 } };
      16 ≤ s.inp.bufLen.toNat ∧ s.bufHolds 16 ∧ s.inp.missionKnown = 1 ∧ s.inp.missionId.held = true ∧ s.inp.t0Valid = 0 ∧
        (s.cfg.checkLength = false ∨ s.inp.bufLen.toNat - 6 = (lenFields s.buf 32).pktLen.toNat) ∧
        (dfhFields s.buf 48).syncBit = p.2.1 ∧
        (s.ephAnswer ⟨s.inp.missionId.value, (dfhFields s.buf 48).coarse, (dfhFields s.buf 48).fine, 5⟩).ok = 1 := by
  decide +kernel

/-- V-K5. -/
theorem witness_DpktServiceFailureKeepsTheHeaders :
    let s := ephPacketState ⟨0, 0⟩
    16 ≤ s.inp.bufLen.toNat ∧ s.bufHolds 16 ∧ s.inp.missionKnown = 1 ∧ s.inp.missionId.held = true ∧ s.inp.t0Valid = 0 ∧
      (dfhFields s.buf 48).syncBit = 0 ∧
      (s.ephAnswer ⟨s.inp.missionId.value, (dfhFields s.buf 48).coarse, (dfhFields s.buf 48).fine, 5⟩).ok = 0 := by
  decide +kernel

/-- V-K12 and V-K1 (20 bytes against a raw length of 9, with both values of `CHECK_LENGTH`), V-K13 (a raw length of 13), and
an unsynchronized packet. -/
theorem witness_DpktLengthCheckIsOptional :
    ∀ c ∈ [true, false], ∀ bs ∈ [pkBytes, pkBytes.set 5 0x0D, pkBytes.set 10 0x80],
      let s : State := { withT0 1577836800000000 (withMission (-226) (loaded bs)) with
        cfg := { Config.defaults with checkLength := c } };
      16 ≤ s.inp.bufLen.toNat ∧ s.bufHolds 16 ∧ s.inp.missionKnown = 1 ∧ s.inp.missionId.held = true ∧ s.inp.t0Valid = 1 ∧
        s.inp.t0Us.held = true ∧ t0InRange s.inp.t0Us.value.toInt ∧
        (s.inp.bufLen.toNat - 6 = (lenFields s.buf 32).pktLen.toNat ↔ bs = pkBytes.set 5 0x0D) ∧ s.cfg.checkLength = c := by
  decide +kernel

/-- A packet too short, one whose service fails (V-K5), one whose length agrees (V-K13's), and successes with a linear
(V-K1), an ephemeris (V-K4), a sentinel (V-K6) time and of an unknown mission (V-K2): error code and whether the lengths
agree, each without the check. -/
theorem witness_DpktLengthCheckComesLast :
    [loaded [], ephPacketState ⟨0, 0⟩, withMission (-226) (withT0 0 (loaded (pkBytes.set 5 0x0D))), packetState,
        ephPacketState ⟨1, 1⟩, unsyncPacketState, loaded pkBytes].map (fun s =>
      (nextOf (exec .dpkt s)).map fun t =>
        (s.cfg.checkLength, t.stat.errCode, decide (s.inp.bufLen.toNat - 6 = t.len.pktLen.toNat)))
      = [some (false, 1, true), some (false, 2, false), some (false, 0, true), some (false, 0, false), some (false, 0, false),
        some (false, 0, false), some (false, 0, false)] := by decide +kernel

/-- The S9 packet is the encoding of its fields, with its four payload bytes. -/
theorem witness_DpktRecoversEveryEncodedPacket :
    packetState.bufStarts (encodePkt (encodeSph48 (encodePid16 0 0 1 417) (encodePsc16 3 5) 9)
        (encodeDfh80 0 1 0 3 25 0 0 500 0) [0xDE, 0xAD, 0xBE, 0xEF]) ∧
      packetState.inp.bufLen.toNat = 16 + 4 ∧ packetState.inp.missionKnown = 1 ∧ packetState.inp.missionId.held = true ∧
      packetState.inp.t0Valid = 1 ∧ packetState.inp.t0Us.held = true ∧ packetState.cfg.checkLength = false := by
  decide +kernel

theorem witness_CommandsLeaveTheBufferAndRepeat : (nextOf (exec .dpkt packetState)).isSome = true := by decide +kernel
/-- A state that has run a command and one that has not, and a command that is refused in both. -/
theorem witness_CommandsDependOnInputsAlone :
    (let s' : State := { packetState with stat := .success 1 0x1FF, host := [.reset], rdata := some 3 };
      packetState.inp = s'.inp ∧ packetState.buf = s'.buf ∧ packetState.cfg = s'.cfg ∧ packetState.eph = s'.eph ∧
        packetState ≠ s') ∧
      refusalOf (exec .dpid { State.reset with inp := { State.reset.inp with bufLen := 2 } }) = some (.noValueByte 0) := by
  decide +kernel
theorem witness_ReadyCommandsComplete : CommandReady .dpkt packetState ∧ CommandReady .bfx (withWl [8] (loaded [0xFF])) ∧
    CommandReady .tres State.reset ∧ CommandReady .ddfh (loaded dfhBytes) := by
  refine ⟨?_, ?_, ?_, ?_⟩ <;> simp only [CommandReady] <;> decide +kernel
/-- A register missing for TRES, an entry of the width list for BFX, the mission for DPKT, and a byte for DPID. -/
theorem witness_CommandsStopOnlyForMissingValues :
    refusalOf (exec .tres (withT0 0 State.reset)) = some (.noValueRegister 0x06) ∧
      refusalOf (exec .bfx { State.reset with inp := { State.reset.inp with wlCnt := 16 } }) = some (.noValueRegister 0x10) ∧
      refusalOf (exec .dpkt { loaded pkBytes with inp := { (loaded pkBytes).inp with missionKnown := 1 } })
        = some (.noValueRegister 0x02) ∧
      refusalOf (exec .dpid { State.reset with inp := { State.reset.inp with bufLen := 2 } }) = some (.noValueByte 0) := by
  decide +kernel
theorem witness_StatusTellsTheOutcome :
    (nextOf (exec .dpkt (loaded pkBytes))).map (fun t => t.stat.status) = some 5 ∧
      (nextOf (exec .dpkt (loaded []))).map (fun t => t.stat.status) = some 7 := by decide +kernel

/-- Every error code is reached, code 2 by each of its commands and code 3 with a known and with an unknown mission, and with
it the valid bits. -/
theorem witness_EachErrorHasItsCommands :
    [exec .dsph State.reset, exec .tres State.reset, exec .ddfh (loaded dfhBytes), exec .dpkt (ephPacketState ⟨0, 0⟩),
      exec .dpkt { packetState with cfg := { Config.defaults with checkLength := true } },
      exec .dpkt { loaded pkBytes with cfg := { Config.defaults with checkLength := true } }, exec (.reserved 8) State.reset,
      exec .bfx (withWl [0] State.reset)].map (fun x => (nextOf x).map fun t => (t.stat.errCode.toNat, t.stat.valid.toNat))
      = [some (1, 0), some (2, 0), some (2, 0x008), some (2, 0x06F), some (3, 0x07F), some (3, 0x03F), some (4, 0),
        some (5, 0)] := by decide +kernel
/-- CLR is none of the commands that write an output group. -/
theorem witness_OutputsChangeOnlyByTheirCommands : (nextOf (exec .clr packetState)).isSome = true ∧
    Instr.clr ∉ [.dpid, .dpsc, .dsph, .tres, .ddfh, .dpkt, .bfx] := by decide +kernel
theorem witness_AtMostOneEphemerisRequest : (nextOf (exec .dpkt (ephPacketState ⟨0, 0⟩))).map (fun t => t.eph.requests)
    = some [⟨BitVec.ofInt 32 (-226), 500, 0, 5⟩] := by decide +kernel
theorem witness_PacketBitMeansAWholePacket : (nextOf (exec .dpkt packetState)).map (fun t => t.isValid .pkt) = some true ∧
    (nextOf (exec .dpkt (loaded pkBytes))).map (fun t => (t.isValid .pkt, t.isValid .mid)) = some (true, false) := by
  decide +kernel

/-- A state that is not the reset state meets the invariant and steps: a packet about to be decoded. -/
theorem witness_EveryStepKeepsTheInvariant :
    (packetState.withFetchWord 8 7).Inv ∧ (nextOf (step (packetState.withFetchWord 8 7))).isSome = true := by decide +kernel
theorem witness_ParametersNeverChange : (nextOf (step (hostState [.reset]))).isSome = true := by decide +kernel
/-- The texts of V-T19's and of the last linear value, and the values next to the linear range. -/
theorem witness_UtcTextsHaveTheirForm : (iso 1 (-62135596800000000)).isSome = true ∧ (iso 2 0).isSome = true ∧
    (iso 1 (-62135596800000001)).isSome = false ∧
    (iso 1 253402300799999999).map (fun x => (x.length, x[19]?, x[25]?)) = some (27, some '.', some '9') ∧
    (iso 2 170406720012345).map (fun x => (x.length, x[19]?, x[24]?)) = some (26, some '.', some '5') ∧
    (iso 1 253402300800000000).isSome = false := by decide +kernel

end Sys2Proof.Tests
end

section
/-! PROOFS, part 1. What every step keeps: the parameters and the invariant. The layers below it: what a decoded group holds,
what each command leaves (frame, error record, valid groups), and what a host move can do. -/

namespace Sys2Proof.Machine

/-! ### What a decoded group holds -/

/-- PROCESS_ID and PKT_CAT are the upper seven and the lower four bits of APID (00_scope R16). -/
theorem pidFields_split (m : Memory) (p : Nat) :
    (pidFields m p).processId.toNat * 16 + (pidFields m p).pktCat.toNat = (pidFields m p).apid.toNat := by
  have hsplit (a : BitVec 11) : (a.extractLsb' 4 7).toNat * 16 + (a.extractLsb' 0 4).toNat = a.toNat := by
    simp only [BitVec.extractLsb'_toNat]
    omega
  exact hsplit _

/-- The packet length is one more than the length field, with no wrap (41_primary_header R140). -/
theorem lenFields_pktLen_toNat (m : Memory) (p : Nat) :
    (lenFields m p).pktLen.toNat = (lenFields m p).rawLen.toNat + 1 := by
  have hsucc (raw : BitVec 16) : (raw.setWidth 17 + 1).toNat = raw.toNat + 1 := by
    have := raw.isLt
    rw [BitVec.toNat_add, BitVec.toNat_setWidth, show (1 : BitVec 17).toNat = 1 from rfl]
    omega
  exact hsucc _

/-- An extracted result is below two to the largest legal width (10_state R48). -/
theorem State.writeResults_lt {s : State} (hlegal : s.widthsLegal) (hmax : s.cfg.wlMax ≤ 16) {i : Nat}
    (hi : i < s.inp.wlCnt.toNat) :
    (writeResults s.res.bfx 0 (fields s.buf 0 (s.widthEntries.map fun r => r.value.toNat))).toList.getD i 0 <
      2 ^ s.cfg.fieldMax := by
  obtain ⟨hcnt, hwidths⟩ := hlegal
  have hlen : s.widthEntries.length = s.inp.wlCnt.toNat := by
    rw [State.widthEntries, List.length_take, Vector.length_toList]
    omega
  rw [writeResults_toList_getD _ _ _ _ (by omega), if_pos (by simp [hlen, hi])]
  refine (fields_getD_lt ..).trans_le (Nat.pow_le_pow_right (by decide) ?_)
  have hi' : i < s.widthEntries.length := hlen ▸ hi
  obtain ⟨-, -, hle⟩ := hwidths _ (List.getElem_mem hi')
  simpa [hi'] using hle

/-! ### The end of a command -/

/-- What no command changes: the inputs, the buffer, the parameters and the host's side. -/
structure CommandFrame (s t : State) : Prop where
  inp : t.inp = s.inp
  buf : t.buf = s.buf
  cfg : t.cfg = s.cfg
  host : t.host = s.host
  rdata : t.rdata = s.rdata

/-- What a command that ran from `s` leaves: the frame, a consistent error record, and valid groups that hold what the spec
says of them. That the results of BFX fit the result file rests on the bound of `WL_MAX`. -/
structure CommandKeeps (s t : State) : Prop extends CommandFrame s t where
  record : t.recordInv
  outputs : s.cfg.wlMax ≤ 16 → t.outputInv

/-- The error codes and causes that `raise` records together. -/
abbrev LegalRecord (e : BitVec 3) (k : BitVec 2) : Prop := e ≠ 0 ∧ e.toNat ≤ 5 ∧ (k ≠ 0 ↔ e = 2) ∧ k ≠ 3

/-- The record of a command that ended with no error. -/
theorem State.recordInv_of_success {s : State} {w : BitVec 1} {v : BitVec 9} (h : s.stat = .success w v) : s.recordInv := by
  have hstatus : ∀ w : BitVec 1, (w ++ 0b01#2).getLsbD 0 = true ∧ (w ++ 0b01#2).getLsbD 1 = false := by decide
  obtain ⟨hdone, herr⟩ := hstatus w
  simp only [State.recordInv, h, StatusRegs.success, hdone, herr]
  exact ⟨by decide, by decide, by decide, by decide, nofun⟩

/-- The record of a command that ended by `raise`. -/
theorem State.recordInv_of_failure {s : State} {w : BitVec 1} {e u : BitVec 3} {r a : Nat} {k : BitVec 2} {v : BitVec 9}
    (h : s.stat = .failure w e u r a k v) (hrec : LegalRecord e k) : s.recordInv := by
  have hstatus : ∀ w : BitVec 1, (w ++ 0b11#2).getLsbD 0 = true ∧ (w ++ 0b11#2).getLsbD 1 = true := by decide
  obtain ⟨hdone, herr⟩ := hstatus w
  obtain ⟨hcode, hmax, hcause, hlegal⟩ := hrec
  simp only [State.recordInv, h, StatusRegs.failure, hdone, herr]
  exact ⟨⟨fun _ => hcode, fun _ => trivial⟩, hmax, hcause, hlegal, nofun⟩

/-- The record of a DPKT that has decoded everything: no error, or a consistency error. -/
theorem State.recordInv_of_packetStatus {s t : State} (h : t.stat = s.packetStatus) : t.recordInv := by
  unfold State.packetStatus at h
  split at h
  · exact State.recordInv_of_failure h (by decide)
  · exact State.recordInv_of_success h

/-- With no group valid there is nothing to say of the outputs. -/
theorem State.outputInv_of_valid_eq_zero {s : State} (h : s.stat.valid = 0) : s.outputInv := by
  simp [State.outputInv, State.isValid, h]

/-- A command that raises before it has decoded anything. -/
theorem CommandKeeps.of_early_failure (s : State) (eph : EphPort) (w : BitVec 1) {e u : BitVec 3} {r a : Nat} {k : BitVec 2}
    (hrec : LegalRecord e k) : CommandKeeps s { s with stat := .failure w e u r a k 0, eph := eph } :=
  ⟨⟨rfl, rfl, rfl, rfl, rfl⟩, State.recordInv_of_failure rfl hrec, fun _ => State.outputInv_of_valid_eq_zero rfl⟩

/-! Each command keeps these, by the cases of its end. -/

theorem execClr_keeps {s t : State} (h : execClr s = .next t) : CommandKeeps s t := by
  cases (execClr_eq s).symm.trans h
  exact ⟨⟨rfl, rfl, rfl, rfl, rfl⟩, State.recordInv_of_success rfl, fun _ => State.outputInv_of_valid_eq_zero rfl⟩

theorem execReserved_keeps (code : BitVec 8) {s t : State} (h : execReserved code s = .next t) : CommandKeeps s t := by
  cases (execReserved_eq code s).symm.trans h
  exact .of_early_failure s _ _ (by decide)

theorem execBfx_keeps {s t : State} (h : execBfx s = .next t) : CommandKeeps s t := by
  rcases execBfx_cases s with
    ⟨-, e⟩ | ⟨-, _, -, -, e⟩ | ⟨-, _, -, e⟩ | ⟨-, -, e⟩ | ⟨hlegal, -, -, e⟩ | ⟨-, -, _, -, -, e⟩ <;> cases e.symm.trans h
  · exact .of_early_failure s _ _ (by decide)
  · exact .of_early_failure s _ _ (by decide)
  · exact .of_early_failure s _ _ (by decide)
  · refine ⟨⟨rfl, rfl, rfl, rfl, rfl⟩, State.recordInv_of_success rfl, fun hmax => ?_⟩
    have hres : ∀ i < s.inp.wlCnt.toNat, _ := fun i hi => State.writeResults_lt hlegal hmax hi
    simpa [State.outputInv, State.isValid, StatusRegs.success, Group.bit, hlegal.1] using hres

theorem execDpid_keeps {s t : State} (h : execDpid s = .next t) : CommandKeeps s t := by
  rcases execDpid_cases s with ⟨-, e⟩ | ⟨-, -, e⟩ | ⟨-, _, -, -, e⟩ <;> cases e.symm.trans h
  · exact .of_early_failure s _ _ (by decide)
  · refine ⟨⟨rfl, rfl, rfl, rfl, rfl⟩, State.recordInv_of_success rfl, fun _ => ?_⟩
    simp [State.outputInv, State.isValid, StatusRegs.success, Group.bit, pidFields_split]

theorem execDpsc_keeps {s t : State} (h : execDpsc s = .next t) : CommandKeeps s t := by
  rcases execDpsc_cases s with ⟨-, e⟩ | ⟨-, -, e⟩ | ⟨-, _, -, -, e⟩ <;> cases e.symm.trans h
  · exact .of_early_failure s _ _ (by decide)
  · refine ⟨⟨rfl, rfl, rfl, rfl, rfl⟩, State.recordInv_of_success rfl, fun _ => ?_⟩
    simp [State.outputInv, State.isValid, StatusRegs.success, Group.bit]

theorem execDsph_keeps {s t : State} (h : execDsph s = .next t) : CommandKeeps s t := by
  rcases execDsph_cases s with ⟨-, e⟩ | ⟨-, -, e⟩ | ⟨-, _, -, -, e⟩ <;> cases e.symm.trans h
  · exact .of_early_failure s _ _ (by decide)
  · refine ⟨⟨rfl, rfl, rfl, rfl, rfl⟩, State.recordInv_of_success rfl, fun _ => ?_⟩
    simp [State.outputInv, State.isValid, StatusRegs.success, Group.bit, pidFields_split, lenFields_pktLen_toNat]

theorem execTres_keeps {s t : State} (h : execTres s = .next t) : CommandKeeps s t := by
  rcases execTres_cases s with ⟨-, -, -, -, e⟩ | ⟨-, -, e⟩ | ⟨-, -, -, -, -, -, e⟩ | ⟨-, -, -, -, -, -, e⟩ | ⟨-, _, -, e⟩ <;>
    cases e.symm.trans h
  · refine ⟨⟨rfl, rfl, rfl, rfl, rfl⟩, State.recordInv_of_success rfl, fun _ => ?_⟩
    simp [State.outputInv, State.isValid, StatusRegs.success, Group.bit]
  · exact .of_early_failure s _ _ (by decide)
  · exact .of_early_failure s _ _ (by decide)
  · refine ⟨⟨rfl, rfl, rfl, rfl, rfl⟩, State.recordInv_of_success rfl, fun _ => ?_⟩
    simp [State.outputInv, State.isValid, StatusRegs.success, Group.bit]

theorem execDdfh_keeps {s t : State} (h : execDdfh s = .next t) : CommandKeeps s t := by
  rcases execDdfh_cases s with ⟨-, e⟩ | ⟨-, -, _, _, hu, e⟩ | ⟨-, -, -, -, -, e⟩ | ⟨-, -, -, -, -, -, -, e⟩ |
    ⟨-, -, -, -, _, -, e⟩ | ⟨-, _, -, -, e⟩ <;> cases e.symm.trans h
  · exact .of_early_failure s _ _ (by decide)
  · refine ⟨⟨rfl, rfl, rfl, rfl, rfl⟩, State.recordInv_of_success rfl, fun _ => ?_⟩
    simpa [State.outputInv, State.isValid, StatusRegs.success, Group.bit, dfhFields] using hu.utcKind_ne
  · refine ⟨⟨rfl, rfl, rfl, rfl, rfl⟩, State.recordInv_of_failure rfl (by decide), fun _ => ?_⟩
    simp [State.outputInv, State.isValid, StatusRegs.failure, Group.bit, dfhFields]
  · refine ⟨⟨rfl, rfl, rfl, rfl, rfl⟩, State.recordInv_of_failure rfl (by decide), fun _ => ?_⟩
    simp [State.outputInv, State.isValid, StatusRegs.failure, Group.bit, dfhFields]

/-- The packet bit of a DPKT that has decoded everything stands for a whole packet, and the result file is not valid. -/
theorem State.packetStatus_valid (s : State) :
    s.packetStatus.valid.getLsbD 8 = false ∧
      (s.packetStatus.valid.getLsbD 7 = true → s.packetStatus.errCode = 0 ∧ s.packetStatus.valid ||| 0x040 = 0x0FF) := by
  have hfailed : ∀ b : BitVec 1, (writeBit (0x03F : BitVec 9) 6 b).getLsbD 8 = false ∧
      (writeBit (0x03F : BitVec 9) 6 b).getLsbD 7 = false := by decide
  have hwhole : ∀ b : BitVec 1, (writeBit (0x0BF : BitVec 9) 6 b).getLsbD 8 = false ∧
      writeBit (0x0BF : BitVec 9) 6 b ||| 0x040 = 0x0FF := by decide
  unfold State.packetStatus
  split
  · obtain ⟨hbfx, hpkt⟩ := hfailed s.inp.missionKnown
    exact ⟨hbfx, fun h => absurd (hpkt.symm.trans h) Bool.false_ne_true⟩
  · obtain ⟨hbfx, hor⟩ := hwhole s.inp.missionKnown
    exact ⟨hbfx, fun _ => ⟨rfl, hor⟩⟩

theorem execDpkt_keeps {s t : State} (h : execDpkt s = .next t) : CommandKeeps s t := by
  rcases execDpkt_cases s with
    ⟨-, e⟩ | ⟨-, -, -, _, _, hu, e⟩ | ⟨-, -, -, -, -, -, -, e⟩ | ⟨-, -, -, _, -, e⟩ | ⟨-, _, -, -, e⟩ <;> cases e.symm.trans h
  · exact .of_early_failure s _ _ (by decide)
  · obtain ⟨hbfx, hpkt⟩ := s.packetStatus_valid
    refine ⟨⟨rfl, rfl, rfl, rfl, rfl⟩, State.recordInv_of_packetStatus rfl, fun _ => ?_⟩
    exact ⟨fun _ => pidFields_split .., fun _ => lenFields_pktLen_toNat .., fun _ => rfl, fun _ => hu.utcKind_ne, fun _ => rfl,
      fun h => absurd (hbfx.symm.trans h) Bool.false_ne_true, hpkt⟩
  · refine ⟨⟨rfl, rfl, rfl, rfl, rfl⟩, State.recordInv_of_failure rfl (by decide), fun _ => ?_⟩
    simp [State.outputInv, State.isValid, StatusRegs.failure, Group.bit, pidFields_split, lenFields_pktLen_toNat, dfhFields]

/-- What every command keeps. -/
theorem exec_keeps {i : Instr} {s t : State} (h : exec i s = .next t) : CommandKeeps s t := by
  cases i with
  | clr => exact execClr_keeps h
  | bfx => exact execBfx_keeps h
  | dpid => exact execDpid_keeps h
  | dpsc => exact execDpsc_keeps h
  | dsph => exact execDsph_keeps h
  | tres => exact execTres_keeps h
  | ddfh => exact execDdfh_keeps h
  | dpkt => exact execDpkt_keeps h
  | reserved code => exact execReserved_keeps code h

/-- A command changes status registers, output groups and the ephemeris port alone. -/
theorem exec_frame {i : Instr} {s t : State} (h : exec i s = .next t) : CommandFrame s t := (exec_keeps h).toCommandFrame

/-! ### Host moves and steps -/

/-- The writes of `v` to a register that complete, and the input registers after each: the value fits the register and its
range (10_state R26 to R34, 70_reset_and_hazards R275), or the register is read-only and the write is ignored (10_state R22). -/
inductive RegWrite (s : State) (v : Int) : Reg → Inputs → Prop
  | bufLen (hfits : fitsUnsigned 32 v) (hmax : v ≤ s.cfg.bufMax) :
    RegWrite s v .bufLen { s.inp with bufLen := BitVec.ofInt 32 v }
  | missionId (hfits : fitsSigned 32 v) : RegWrite s v .missionId { s.inp with missionId := .holding (BitVec.ofInt 32 v) }
  | missionKnown (hfits : fitsUnsigned 1 v) (hheld : v = 1 → s.inp.missionId.held = true) :
    RegWrite s v .missionKnown { s.inp with missionKnown := BitVec.ofInt 1 v }
  | t0Valid (hfits : fitsUnsigned 1 v)
    (hrange : BitVec.ofInt 1 v = 1 → s.inp.t0Us.held = true → t0InRange s.inp.t0Us.value.toInt) :
    RegWrite s v .t0Valid { s.inp with t0Valid := BitVec.ofInt 1 v }
  | t0Us (hfits : fitsSigned 64 v) (hrange : s.inp.t0Valid = 1 → t0InRange (BitVec.ofInt 64 v).toInt) :
    RegWrite s v .t0Us { s.inp with t0Us := .holding (BitVec.ofInt 64 v) }
  | scetInCoarse (hfits : fitsUnsigned 31 v) :
    RegWrite s v .scetInCoarse { s.inp with scetInCoarse := .holding (BitVec.ofInt 31 v) }
  | scetInFine (hfits : fitsUnsigned 16 v) : RegWrite s v .scetInFine { s.inp with scetInFine := .holding (BitVec.ofInt 16 v) }
  | wlCnt (hfits : fitsUnsigned (wlCntWidth s.cfg) v) : RegWrite s v .wlCnt { s.inp with wlCnt := BitVec.ofInt 5 v }
  | wl (i : Nat) (hfits : fitsUnsigned 8 v) :
    RegWrite s v (.wl i) { s.inp with wl := s.inp.wl.setIfInBounds i (.holding (BitVec.ofInt 8 v)) }
  | ignored {r : Reg} (hro : r = .cmd ∨ 0x20 ≤ regNumber r) : RegWrite s v r s.inp

/-- A write to a register other than `CMD` that answers a next state is one of the writes above, and changes input registers
alone. -/
theorem State.writeReg_eq_next {s t : State} {n : Nat} {r : Reg} {v : Int} (h : s.writeReg n r v = .next t) :
    ∃ inp, RegWrite s v r inp ∧ t = { s with inp := inp } := by
  cases r with
  | bufLen =>
    simp only [State.writeReg] at h
    split at h
    · cases h
    · rename_i hfits
      split at h
      · cases h
      · rename_i hmax
        cases h
        exact ⟨_, .bufLen (not_not.mp hfits) (not_lt.mp hmax), rfl⟩
  | missionKnown =>
    simp only [State.writeReg] at h
    split at h
    · cases h
    · rename_i hheld
      obtain ⟨hfits, ht⟩ := checkedWrite_eq_next h
      exact ⟨_, .missionKnown (of_decide_eq_true hfits) fun hv => by simpa [hv] using hheld, ht⟩
  | t0Valid =>
    simp only [State.writeReg] at h
    split at h
    · cases h
    · rename_i hfits
      obtain ⟨ht, hrange⟩ := checkedT0_eq_next h
      exact ⟨_, .t0Valid (not_not.mp hfits) hrange, ht⟩
  | t0Us =>
    simp only [State.writeReg] at h
    split at h
    · cases h
    · rename_i hfits
      obtain ⟨ht, hrange⟩ := checkedT0_eq_next h
      exact ⟨_, .t0Us (not_not.mp hfits) fun hv => hrange hv rfl, ht⟩
  | missionId =>
    obtain ⟨hfits, ht⟩ := checkedWrite_eq_next h
    exact ⟨_, .missionId (of_decide_eq_true hfits), ht⟩
  | scetInCoarse =>
    obtain ⟨hfits, ht⟩ := checkedWrite_eq_next h
    exact ⟨_, .scetInCoarse (of_decide_eq_true hfits), ht⟩
  | scetInFine =>
    obtain ⟨hfits, ht⟩ := checkedWrite_eq_next h
    exact ⟨_, .scetInFine (of_decide_eq_true hfits), ht⟩
  | wlCnt =>
    obtain ⟨hfits, ht⟩ := checkedWrite_eq_next h
    exact ⟨_, .wlCnt (of_decide_eq_true hfits), ht⟩
  | wl i =>
    obtain ⟨hfits, ht⟩ := checkedWrite_eq_next h
    exact ⟨_, .wl i (of_decide_eq_true hfits), ht⟩
  | cmd =>
    cases h
    exact ⟨_, .ignored (.inl rfl), rfl⟩
  | bfx i =>
    cases h
    exact ⟨_, .ignored (.inr (Nat.le_add_right_of_le (by decide))), rfl⟩
  | _ =>
    cases h
    exact ⟨_, .ignored (.inr (by decide)), rfl⟩

/-- A byte of `BUF` is written below `BUF_MAX` alone, and nothing else changes. -/
theorem State.hostWriteByte_eq_next {s t : State} {a : Nat} {b : Byte} (h : s.hostWriteByte a b = .next t) :
    a < s.cfg.bufMax ∧ t = { s with buf := Memory.write s.buf a b } := by
  unfold State.hostWriteByte at h
  split at h
  · rename_i ha
    cases h
    exact ⟨ha, rfl⟩
  · cases h

/-- A host write that answers a next state runs the command it names, or writes a register other than `CMD`. -/
theorem State.hostWrite_eq_next {s t : State} {n : Nat} {v : Int} (h : s.hostWrite n v = .next t) :
    exec (decode (BitVec.ofInt 8 v)) s = .next t ∨ ∃ r, s.writeReg n r v = .next t := by
  rcases s.hostWrite_cases n v with ⟨-, -, e⟩ | ⟨-, -, e⟩ | ⟨r, -, -, e⟩ | ⟨-, e⟩ <;> rw [e] at h
  · exact .inl h
  · cases h
  · exact .inr ⟨r, h⟩
  · cases h

/-- No host move changes the parameters. -/
theorem runAction_cfg {a : HostAction} {s t : State} (h : runAction a s = .next t) : t.cfg = s.cfg := by
  cases a with
  | writeReg n v =>
    rcases State.hostWrite_eq_next h with h | ⟨r, h⟩
    · exact (exec_frame h).cfg
    · obtain ⟨inp, -, rfl⟩ := State.writeReg_eq_next h
      rfl
  | writeByte a b => rw [(State.hostWriteByte_eq_next h).2]
  | readReg n | readByte a =>
    obtain ⟨v, -, rfl⟩ := State.respond_eq_next h
    rfl
  | reset => cases h; rfl

/-- A step with a move pending is that move. -/
theorem step_of_host_eq_cons {s : State} {a : HostAction} {rest : List HostAction} (h : s.host = a :: rest) :
    step s = runAction a (s.popAction rest) := by
  rw [step, h]

/-- A step that answers a read `x` of the host: each outcome of the read, and what the step does then. -/
theorem step_of_respond {s : State} {rest : List HostAction} {x : Host.Outcome Int Fault Refusal}
    (h : step s = (s.popAction rest).respond x) :
    (∀ v, x = .next v → step s = .next { s with host := rest, rdata := some v }) ∧
      (∀ f, x = .fault f → step s = .fault f) ∧ ∀ r, x = .refused r → step s = .refused r := by
  refine ⟨?_, ?_, ?_⟩ <;> rintro _ rfl <;> exact h

/-- A property that the head of the host's list being taken off keeps, and every host move keeps, is kept by every step. -/
theorem step_keeps {P : State → Prop} (hpop : ∀ s rest, P s → P (s.popAction rest))
    (hrun : ∀ a s t, P s → runAction a s = .next t → P t) {s t : State} (hs : P s) (h : step s = .next t) : P t := by
  rcases step_cases s with ⟨-, e⟩ | ⟨a, rest, -, e⟩
  · cases e.symm.trans h
    exact hs
  · exact hrun a _ t (hpop s rest hs) (e.symm.trans h)

/-! ### The invariant -/

/-- A command keeps the invariant. -/
theorem exec_inv {i : Instr} {s t : State} (hs : s.Inv) (h : exec i s = .next t) : t.Inv := by
  obtain ⟨hframe, hrecord, houtputs⟩ := exec_keeps h
  obtain ⟨hcfg, hbuf, hinp, -, -⟩ := hs
  have ⟨_, _, _, hmax, _⟩ := hcfg
  refine ⟨?_, ?_, ?_, hrecord, houtputs hmax⟩
  · rwa [hframe.cfg]
  · rwa [State.bufferInv, hframe.buf, hframe.cfg, hframe.inp]
  · rwa [State.inputInv, hframe.inp, hframe.cfg]

/-- A value that is not negative is not below the number its low bits are. -/
theorem toNat_ofInt_le {w : Nat} {v : Int} (h : 0 ≤ v) : ((BitVec.ofInt w v).toNat : Int) ≤ v := by
  obtain ⟨n, rfl⟩ := Int.eq_ofNat_of_zero_le h
  rw [BitVec.ofInt_natCast, BitVec.toNat_ofNat]
  exact_mod_cast Nat.mod_le _ _

/-- A write to an input register keeps the invariant: each clause that names the register follows from the write's check. -/
theorem State.writeReg_inv {s t : State} {n : Nat} {r : Reg} {v : Int} (hs : s.Inv) (h : s.writeReg n r v = .next t) :
    t.Inv := by
  obtain ⟨hcfg, ⟨hwf, hbelow, hlen⟩, ⟨hcnt, hmission, ht0⟩, hrest⟩ := hs
  obtain ⟨inp, hwrite, rfl⟩ := State.writeReg_eq_next h
  cases hwrite with
  | bufLen hfits hmax =>
    have hle := (toNat_ofInt_le (w := 32) hfits.1).trans hmax
    exact ⟨hcfg, ⟨hwf, hbelow, by exact_mod_cast hle⟩, ⟨hcnt, hmission, ht0⟩, hrest⟩
  | missionId hfits => exact ⟨hcfg, ⟨hwf, hbelow, hlen⟩, ⟨hcnt, fun _ => rfl, ht0⟩, hrest⟩
  | missionKnown hfits hheld =>
    refine ⟨hcfg, ⟨hwf, hbelow, hlen⟩, ⟨hcnt, fun hknown => ?_, ht0⟩, hrest⟩
    have hv : v = 0 ∨ v = 1 := by omega
    rcases hv with rfl | rfl
    · exact absurd hknown (show BitVec.ofInt 1 0 ≠ 1 by decide)
    · exact hheld rfl
  | t0Valid hfits hrange => exact ⟨hcfg, ⟨hwf, hbelow, hlen⟩, ⟨hcnt, hmission, hrange⟩, hrest⟩
  | t0Us hfits hrange => exact ⟨hcfg, ⟨hwf, hbelow, hlen⟩, ⟨hcnt, hmission, fun hvalid _ => hrange hvalid⟩, hrest⟩
  | wlCnt hfits =>
    have hlt := (toNat_ofInt_le (w := 5) hfits.1).trans_lt hfits.2
    exact ⟨hcfg, ⟨hwf, hbelow, hlen⟩, ⟨by exact_mod_cast hlt, hmission, ht0⟩, hrest⟩
  | scetInCoarse | scetInFine | wl i | ignored => exact ⟨hcfg, ⟨hwf, hbelow, hlen⟩, ⟨hcnt, hmission, ht0⟩, hrest⟩

/-- A write of a byte of `BUF` keeps the invariant. -/
theorem State.hostWriteByte_inv {s t : State} {a : Nat} {b : Byte} (hs : s.Inv) (h : s.hostWriteByte a b = .next t) :
    t.Inv := by
  obtain ⟨hcfg, ⟨hwf, hbelow, hlen⟩, hrest⟩ := hs
  obtain ⟨ha, rfl⟩ := State.hostWriteByte_eq_next h
  refine ⟨hcfg, ⟨Memory.write_wf _ _ _ hwf, fun c hc => ?_, hlen⟩, hrest⟩
  rcases Memory.mem_write _ _ _ _ hc with rfl | hc
  · exact ha
  · exact hbelow c hc

/-- The state after reset meets the invariant, whatever the parameters of the block (70_reset_and_hazards R260). -/
theorem State.resetWith_inv {c : Config} (hc : c.WellFormed) (eph : EphPort) (host : List HostAction) :
    (State.resetWith c eph host).Inv := by
  refine ⟨hc, ⟨rfl, nofun, Nat.zero_le _⟩, ⟨Nat.two_pow_pos _, nofun, nofun⟩, ?_, State.outputInv_of_valid_eq_zero rfl⟩
  simp [State.recordInv, State.resetWith, StatusRegs.reset]

/-- Every host move keeps the invariant. -/
theorem runAction_inv {a : HostAction} {s t : State} (hs : s.Inv) (h : runAction a s = .next t) : t.Inv := by
  cases a with
  | writeReg n v =>
    rcases State.hostWrite_eq_next h with h | ⟨r, h⟩
    · exact exec_inv hs h
    · exact State.writeReg_inv hs h
  | writeByte a b => exact State.hostWriteByte_inv hs h
  | readReg n | readByte a =>
    obtain ⟨v, -, rfl⟩ := State.respond_eq_next h
    exact hs
  | reset =>
    cases h
    exact State.resetWith_inv hs.1 _ _

end Sys2Proof.Machine

open Sys2Proof Sys2Proof.Machine

/-- Settles O15: both kinds of read are the move's answer put into the last read answer. -/
theorem readAndWriteMovesInAStep : Obligations.ReadAndWriteMovesInAStep := by
  intro s rest
  refine ⟨fun n hhost => ?_, fun a hhost => ?_, fun a b hhost => step_of_host_eq_cons hhost,
    fun n v hhost => step_of_host_eq_cons hhost⟩
  · have hstep : step s = (s.popAction rest).respond (s.hostRead n) := step_of_host_eq_cons hhost
    exact step_of_respond hstep
  · have hstep : step s = (s.popAction rest).respond (s.hostReadByte a) := step_of_host_eq_cons hhost
    exact step_of_respond hstep

/-- Settles O55: the reset state is the state after reset for the default parameters, which are legal. -/
theorem invariantHoldsAtReset : Obligations.InvariantHoldsAtReset :=
  State.resetWith_inv (by decide) _ _

/-- Settles O57: no host move changes the parameters, a command no more than a register write. -/
theorem parametersNeverChange : Obligations.ParametersNeverChange := fun s _ h =>
  step_keeps (P := fun u => u.cfg = s.cfg) (fun _ _ hu => hu) (fun _ _ _ hu h => (runAction_cfg h).trans hu) rfl h

/-- Settles O56, from the invariant's being kept by every host move, commands included. -/
theorem everyStepKeepsTheInvariant : Obligations.EveryStepKeepsTheInvariant := fun _ _ =>
  step_keeps (P := State.Inv) (fun _ _ hs => hs) fun _ _ _ => runAction_inv
end

section
/-! PROOFS, part 2. A command reads the inputs alone (00_scope R13): two runs from states with the same inputs stay in step.
The relation between the two runs is kept by every operation of a command, so no command is taken apart. -/

namespace Sys2Proof.Machine

/-! ### The relation between two runs -/

/-- The registers of output group `g` read the same in both states; of the result file, the entries below `BFX_CNT`. -/
def GroupAgrees (s t : State) : Group → Prop
  | .pid => s.pid = t.pid
  | .psc => s.psc = t.psc
  | .len => s.len = t.len
  | .dfh => s.dfh = t.dfh
  | .utc => s.utc = t.utc
  | .pay => s.pay = t.pay
  | .mid => s.pktMissionId = t.pktMissionId
  | .pkt => True
  | .bfx => s.res.bfxCnt = t.res.bfxCnt ∧ ∀ i < s.res.bfxCnt.toNat, s.res.bfx.toList.getD i 0 = t.res.bfx.toList.getD i 0

/-- Two states with the same inputs and status registers, whose valid output groups read the same. -/
structure Agree (s t : State) : Prop where
  inputs : SameInputs s t
  stat : s.stat = t.stat
  groups : ∀ g, s.isValid g = true → GroupAgrees s t g

/-- Two parts of a command go on, end, or are refused together. -/
inductive Flow.Agree : Flow → Flow → Prop
  | go {s t : State} (h : Machine.Agree s t) : Flow.Agree (.go s) (.go t)
  | ended {s t : State} (h : Machine.Agree s t) : Flow.Agree (.ended s) (.ended t)
  | refuse (r : Refusal) : Flow.Agree (.refuse r) (.refuse r)

theorem Agree.inp {s t : State} (h : Agree s t) : s.inp = t.inp := h.inputs.1
theorem Agree.buf {s t : State} (h : Agree s t) : s.buf = t.buf := h.inputs.2.1
theorem Agree.cfg {s t : State} (h : Agree s t) : s.cfg = t.cfg := h.inputs.2.2.1
theorem Agree.eph {s t : State} (h : Agree s t) : s.eph = t.eph := h.inputs.2.2.2

theorem Agree.isValid {s t : State} (h : Agree s t) (g : Group) : s.isValid g = t.isValid g := by
  rw [State.isValid, State.isValid, h.stat]

/-- The bit of a group is one of the nine. -/
theorem Group.bit_lt (g : Group) : g.bit < 9 := by cases g <;> decide

theorem Group.bit_injective : Function.Injective Group.bit := by
  intro g g'
  cases g <;> cases g' <;> decide

/-- Writing a valid bit changes that bit alone. -/
theorem State.isValid_setValid (g g' : Group) (b : BitVec 1) (s : State) :
    (s.setValid g b).isValid g' = if g' = g then b.getLsbD 0 else s.isValid g' := by
  rw [State.isValid, State.setValid_stat, getLsbD_writeBit _ _ _ _ g.bit_lt]
  simp only [Group.bit_injective.eq_iff, State.isValid]

/-! ### The operations keep it -/

theorem Agree.endCmd {s t : State} (h : Agree s t) : Agree s.endCmd t.endCmd where
  inputs := h.inputs
  stat := by rw [State.endCmd_stat, State.endCmd_stat, h.stat]
  groups := h.groups

theorem Agree.raise {s t : State} (h : Agree s t) (e : ErrKind) (u : ErrUnit) (r a : Nat) (k : ErrCause) :
    Agree (s.raise e u r a k) (t.raise e u r a k) where
  inputs := h.inputs
  stat := by rw [State.raise_stat, State.raise_stat, h.stat]
  groups := h.groups

theorem Agree.warnUnknownMission {s t : State} (h : Agree s t) : Agree s.warnUnknownMission t.warnUnknownMission where
  inputs := h.inputs
  stat := by rw [State.warnUnknownMission_stat, State.warnUnknownMission_stat, h.stat]
  groups := h.groups

theorem Agree.missionWarning {s t : State} (h : Agree s t) : Agree s.missionWarning t.missionWarning := by
  unfold State.missionWarning
  rw [h.inp]
  split
  · exact h.warnUnknownMission
  · exact h

theorem Agree.ephTransact {s t : State} (h : Agree s t) (r : EphRequest) : Agree (s.ephTransact r) (t.ephTransact r) where
  inputs := ⟨h.inp, h.buf, h.cfg, by rw [State.ephTransact_eph, State.ephTransact_eph, h.eph]⟩
  stat := h.stat
  groups := h.groups

/-- The prologue makes two states with the same inputs agree: it leaves no group valid. -/
theorem SameInputs.beginCmd {s t : State} (h : SameInputs s t) : Agree s.beginCmd t.beginCmd where
  inputs := h
  stat := rfl
  groups g hg := by simp [State.isValid, StatusRegs.reset] at hg

/-- Two states agree once group `g` is written with one value in both and its valid bit with one bit `b`, from states that
agreed: `u` and `v` are those states with the group written. -/
theorem Agree.putGroup {s t u v : State} {g : Group} (h : Agree s t) (b : BitVec 1) (hinputs : SameInputs u v)
    (hu : u.stat = s.stat) (hv : v.stat = t.stat) (hg : GroupAgrees u v g)
    (hothers : ∀ g' ≠ g, GroupAgrees s t g' → GroupAgrees u v g') : Agree (u.setValid g b) (v.setValid g b) where
  inputs := hinputs
  stat := by rw [State.setValid_stat, State.setValid_stat, hu, hv, h.stat]
  groups g' hg' := by
    show GroupAgrees u v g'
    by_cases hgg : g' = g
    · exact hgg ▸ hg
    · rw [State.isValid_setValid, if_neg hgg, State.isValid, hu] at hg'
      exact hothers g' hgg (h.groups g' hg')

section Operations

variable {s t : State} (h : Agree s t)
include h

theorem Agree.decodePid (p : Nat) : Agree (s.decodePid p) (t.decodePid p) :=
  h.putGroup 1 h.inputs rfl rfl (congrArg (pidFields · p) h.buf) fun g hg hgroup => by
    cases g with
    | pid => exact absurd rfl hg
    | _ => exact hgroup

theorem Agree.decodePsc (p : Nat) : Agree (s.decodePsc p) (t.decodePsc p) :=
  h.putGroup 1 h.inputs rfl rfl (congrArg (pscFields · p) h.buf) fun g hg hgroup => by
    cases g with
    | psc => exact absurd rfl hg
    | _ => exact hgroup

theorem Agree.decodeLen (p : Nat) : Agree (s.decodeLen p) (t.decodeLen p) :=
  h.putGroup 1 h.inputs rfl rfl (congrArg (lenFields · p) h.buf) fun g hg hgroup => by
    cases g with
    | len => exact absurd rfl hg
    | _ => exact hgroup

theorem Agree.decodeDfhFields (p : Nat) : Agree (s.decodeDfhFields p) (t.decodeDfhFields p) :=
  h.putGroup 1 h.inputs rfl rfl (congrArg (dfhFields · p) h.buf) fun g hg hgroup => by
    cases g with
    | dfh => exact absurd rfl hg
    | _ => exact hgroup

theorem Agree.putUtc (k : UtcKind) (v : BitVec 64) : Agree (s.putUtc k v) (t.putUtc k v) :=
  h.putGroup 1 h.inputs rfl rfl rfl fun g hg hgroup => by
    cases g with
    | utc => exact absurd rfl hg
    | _ => exact hgroup

theorem Agree.putPayload : Agree s.putPayload t.putPayload :=
  h.putGroup 1 h.inputs rfl rfl (congrArg (fun i : Inputs => PayGroup.mk 16 (i.bufLen - 16)) h.inp) fun g hg hgroup => by
    cases g with
    | pay => exact absurd rfl hg
    | _ => exact hgroup

theorem Agree.putMission : Agree s.putMission t.putMission := by
  have ht : t.putMission = State.setValid .mid s.inp.missionKnown { t with pktMissionId := t.inp.missionId.value } := by
    rw [State.putMission, h.inp]
  rw [ht]
  refine h.putGroup _ h.inputs rfl rfl (congrArg (fun i : Inputs => i.missionId.value) h.inp) fun g hg hgroup => ?_
  cases g with
  | mid => exact absurd rfl hg
  | _ => exact hgroup

theorem Agree.setPacketValid : Agree (s.setValid .pkt 1) (t.setValid .pkt 1) :=
  h.putGroup 1 h.inputs rfl rfl trivial fun _ _ hgroup => hgroup

/-- The results of BFX: the entries below `BFX_CNT` are written, since the width list is as long as `WL_CNT` says or fills
the result file. -/
theorem Agree.putResults {ws : List Nat} (hws : ws.length = s.widthEntries.length) :
    Agree (s.putResults ws) (t.putResults ws) := by
  refine h.putGroup 1 h.inputs rfl rfl ⟨congrArg Inputs.wlCnt h.inp, fun i hi => ?_⟩ fun g hg hgroup => ?_
  · show (writeResults s.res.bfx 0 (fields s.buf 0 ws)).toList.getD i 0 =
      (writeResults t.res.bfx 0 (fields t.buf 0 ws)).toList.getD i 0
    rw [← h.buf]
    rcases Nat.lt_or_ge i 16 with hfile | hfile
    · have hwritten : 0 ≤ i ∧ i < 0 + (fields s.buf 0 ws).length := by
        rw [fields_length, hws, State.widthEntries, List.length_take, Vector.length_toList]
        replace hi : i < s.inp.wlCnt.toNat := hi
        omega
      rw [writeResults_toList_getD _ _ _ _ hfile, writeResults_toList_getD _ _ _ _ hfile, if_pos hwritten, if_pos hwritten]
    · rw [List.getD_eq_default _ _ (by simpa using hfile), List.getD_eq_default _ _ (by simpa using hfile)]
  · cases g with
    | bfx => exact absurd rfl hg
    | _ => exact hgroup

theorem Agree.decodeSph (p : Nat) : Agree (s.decodeSph p) (t.decodeSph p) :=
  ((h.decodePid p).decodePsc (p + 16)).decodeLen (p + 32)

theorem Agree.decodePacket : Agree s.decodePacket t.decodePacket :=
  ((h.decodeSph 0).decodeDfhFields 48).putPayload.putMission

end Operations

/-! ### The parts of a command keep it -/

/-- A check that lets the command go on leaves the state as it is. -/
theorem needBits_eq_go {u : ErrUnit} {n : Nat} {s t : State} (h : needBits u n s = .go t) : t = s := by
  rcases needBits_cases u n s with ⟨-, e⟩ | ⟨-, e⟩ <;> cases e.symm.trans h
  rfl

theorem needBytes_eq_go {n : Nat} {s t : State} (h : needBytes n s = .go t) : t = s := by
  rcases needBytes_cases n s with ⟨-, e⟩ | ⟨_, -, -, e⟩ <;> cases e.symm.trans h
  rfl

/-- The time policy leaves the decoded length as it is. -/
theorem dfhTime_len {t0v : BitVec 1} {t0 : InputReg 64} {s t : State} (h : dfhTime t0v t0 s = .go t) : t.len = s.len := by
  rcases dfhTime_cases t0v t0 s with ⟨-, e⟩ | ⟨-, -, e⟩ | ⟨-, -, e⟩ <;> rw [e] at h
  · cases h
    rfl
  · rcases resolveLinear_cases (.holding s.dfh.coarse) (.holding s.dfh.fine) t0 s with ⟨-, -, -, e⟩ | ⟨_, -, e⟩ <;>
      cases e.symm.trans h
    rfl
  · rcases resolveEphemeris_cases (.holding s.dfh.coarse) (.holding s.dfh.fine) s.inp.missionId s.inp.missionKnown .dfh s with
      ⟨-, e⟩ | ⟨-, _, -, e⟩ | ⟨-, -, -, -, -, e⟩ | ⟨-, -, -, -, -, e⟩ <;> cases e.symm.trans h
    rfl

/-- Two commands stay in step when their next parts do, from any two states that agree and that the parts before answer. -/
theorem Flow.Agree.andThen {x y : Flow} {k k' : State → Flow} (h : Flow.Agree x y)
    (hk : ∀ s t, x = .go s → y = .go t → Machine.Agree s t → Flow.Agree (k s) (k' t)) :
    Flow.Agree (x.andThen k) (y.andThen k') := by
  cases h with
  | go h => exact hk _ _ rfl rfl h
  | ended h => exact .ended h
  | refuse r => exact .refuse r

section Parts

variable {s t : State} (h : Agree s t)
include h

theorem Agree.needBits (u : ErrUnit) (n : Nat) : Flow.Agree (needBits u n s) (needBits u n t) := by
  unfold Machine.needBits State.availBits
  rw [← h.inp]
  split
  · exact .ended (h.raise ..)
  · exact .go h

theorem Agree.needBytes (n : Nat) : Flow.Agree (needBytes n s) (needBytes n t) := by
  unfold Machine.needBytes
  rw [← h.buf]
  split
  · exact .refuse _
  · exact .go h

theorem Agree.needHeld (n : Nat) (held : Bool) : Flow.Agree (needHeld n held s) (needHeld n held t) := by
  cases held
  · exact .refuse _
  · exact .go h

theorem Agree.resolveLinear (c : InputReg 31) (f : InputReg 16) (t0 : InputReg 64) :
    Flow.Agree (resolveLinear c f t0 s) (resolveLinear c f t0 t) := by
  refine (h.needHeld ..).andThen fun _ _ _ _ h => (h.needHeld ..).andThen fun _ _ _ _ h =>
    (h.needHeld ..).andThen fun _ _ _ _ h => ?_
  rw [h.cfg]
  exact .go (h.putUtc ..)

theorem Agree.resolveEphemeris (c : InputReg 31) (f : InputReg 16) (mid : InputReg 32) (known : BitVec 1) (u : ErrUnit) :
    Flow.Agree (resolveEphemeris c f mid known u s) (resolveEphemeris c f mid known u t) := by
  unfold Machine.resolveEphemeris
  split
  · exact .ended (h.raise ..)
  · refine (h.needHeld ..).andThen fun _ _ _ _ h => (h.needHeld ..).andThen fun _ _ _ _ h =>
      (h.needHeld ..).andThen fun _ _ _ _ h => ?_
    simp only [State.ephAnswer_congr h.eph]
    split
    · exact .ended ((h.ephTransact _).raise ..)
    · exact .go ((h.ephTransact _).putUtc ..)

theorem Agree.resolve (c : InputReg 31) (f : InputReg 16) (mid : InputReg 32) (known t0v : BitVec 1) (t0 : InputReg 64)
    (u : ErrUnit) : Flow.Agree (resolve c f mid known t0v t0 u s) (resolve c f mid known t0v t0 u t) := by
  unfold Machine.resolve
  split
  · exact h.resolveLinear ..
  · exact h.resolveEphemeris ..

/-- The time policy reads the Data Field Header that was just decoded, so it must be the same in both. -/
theorem Agree.dfhTime (hdfh : s.dfh = t.dfh) (t0v : BitVec 1) (t0 : InputReg 64) :
    Flow.Agree (dfhTime t0v t0 s) (dfhTime t0v t0 t) := by
  unfold Machine.dfhTime
  rw [← hdfh, ← h.inp]
  split
  · exact .go (h.putUtc ..)
  · exact h.resolve ..

/-- The length check reads the length that was decoded before. -/
theorem Agree.checkPacketLength (hlen : s.len = t.len) : Flow.Agree (checkPacketLength s) (checkPacketLength t) := by
  unfold Machine.checkPacketLength
  rw [← hlen, ← h.inp, ← h.cfg]
  split
  · exact .ended (h.raise ..)
  · exact .go h

theorem Agree.extractWidths {ws : List Nat} (hws : ws.length = s.widthEntries.length) :
    Flow.Agree (extractWidths ws s) (extractWidths ws t) := by
  refine (h.needBits ..).andThen fun s' _ hs' _ h => (h.needBytes _).andThen fun s'' _ hs'' _ h => ?_
  cases needBits_eq_go hs'
  cases needBytes_eq_go hs''
  exact .go (h.putResults hws)

end Parts

/-! ### Every command keeps it -/

/-- Two outcomes of a command that a host cannot tell apart: next states that agree, or the same refusal. -/
inductive OutcomeAgree : Host.Outcome State Fault Refusal → Host.Outcome State Fault Refusal → Prop
  | next {s t : State} (h : Agree s t) : OutcomeAgree (.next s) (.next t)
  | refused (r : Refusal) : OutcomeAgree (.refused r) (.refused r)

theorem Flow.Agree.finish {x y : Flow} (h : Flow.Agree x y) : OutcomeAgree x.finish y.finish := by
  cases h with
  | go h => exact .next h.endCmd
  | ended h => exact .next h
  | refuse r => exact .refused r

theorem SameInputs.execBfx {s t : State} (h : SameInputs s t) : OutcomeAgree (execBfx s) (execBfx t) := by
  have hb := h.beginCmd
  have hentries : s.beginCmd.widthEntries = t.beginCmd.widthEntries := by
    rw [State.widthEntries, State.widthEntries, hb.inp]
  unfold Machine.execBfx
  dsimp only
  rw [← hb.inp, ← hb.cfg, ← hentries]
  refine Flow.Agree.finish ?_
  split
  · exact .ended (hb.raise ..)
  · split
    · exact .refuse _
    · exact .ended (hb.raise ..)
    · rename_i ws hws
      exact hb.extractWidths (by rw [(scanWidths_good _ _ _ _ hws).1, List.length_map])

theorem SameInputs.execDdfh {s t : State} (h : SameInputs s t) : OutcomeAgree (execDdfh s) (execDdfh t) := by
  refine ((h.beginCmd.needBits ..).andThen fun _ _ _ _ h => (h.needBytes _).andThen fun _ _ _ _ h => ?_).finish
  rw [← h.inp]
  exact (h.decodeDfhFields 0).dfhTime (congrArg (dfhFields · 0) h.buf) ..

theorem SameInputs.execDpkt {s t : State} (h : SameInputs s t) : OutcomeAgree (execDpkt s) (execDpkt t) := by
  refine ((h.beginCmd.missionWarning.needBits ..).andThen fun _ _ _ _ h => (h.needBytes _).andThen fun s t _ _ h => ?_).finish
  rw [← h.inp]
  refine (h.needHeld ..).andThen fun s t _ _ h => ?_
  have hdfh : s.decodePacket.dfh = t.decodePacket.dfh := congrArg (dfhFields · 48) h.buf
  have hlen : s.decodePacket.len = t.decodePacket.len := congrArg (lenFields · 32) h.buf
  rw [State.packetT0Valid, State.packetT0, State.packetT0Valid, State.packetT0, ← h.inp]
  refine (h.decodePacket.dfhTime hdfh ..).andThen fun s' t' hs ht h => ?_
  have hlen' : s'.len = t'.len := by rw [dfhTime_len hs, dfhTime_len ht, hlen]
  exact (h.checkPacketLength hlen').andThen fun _ _ _ _ h => .go h.setPacketValid

/-- From the same inputs, whatever else differs, every command has outcomes that a host cannot tell apart. -/
theorem SameInputs.exec (i : Instr) {s t : State} (h : SameInputs s t) : OutcomeAgree (exec i s) (exec i t) := by
  cases i with
  | clr => exact Flow.Agree.finish (.go h.beginCmd)
  | reserved code => exact Flow.Agree.finish (.ended (h.beginCmd.raise ..))
  | bfx => exact h.execBfx
  | dpid =>
    exact ((h.beginCmd.needBits ..).andThen fun _ _ _ _ h =>
      (h.needBytes _).andThen fun _ _ _ _ h => .go (h.decodePid 0)).finish
  | dpsc =>
    exact ((h.beginCmd.needBits ..).andThen fun _ _ _ _ h =>
      (h.needBytes _).andThen fun _ _ _ _ h => .go (h.decodePsc 0)).finish
  | dsph =>
    exact ((h.beginCmd.needBits ..).andThen fun _ _ _ _ h =>
      (h.needBytes _).andThen fun _ _ _ _ h => .go (h.decodeSph 0)).finish
  | tres =>
    show OutcomeAgree (execTres s) (execTres t)
    unfold execTres
    dsimp only
    rw [h.beginCmd.inp]
    exact (h.beginCmd.resolve ..).finish
  | ddfh => exact h.execDdfh
  | dpkt => exact h.execDpkt

/-! ### A host reads the same in states that agree -/

/-- A register of a group reads the same when the group is valid in both or in neither, and holds one value where valid. -/
theorem State.readGroup_congr {s t : State} {n : Nat} {g : Group} {v w : Int} (hvalid : s.isValid g = t.isValid g)
    (hvw : s.isValid g = true → v = w) : s.readGroup n g v = t.readGroup n g w := by
  unfold State.readGroup
  rw [← hvalid]
  split
  · rename_i hg
    rw [hvw hg]
  · rfl

theorem Agree.readReg {s t : State} (h : Agree s t) (n : Nat) (r : Reg) : s.readReg n r = t.readReg n r := by
  have hread (g : Group) {v w : Int} (hvw : GroupAgrees s t g → v = w) : s.readGroup n g v = t.readGroup n g w :=
    State.readGroup_congr (h.isValid g) fun hg => hvw (h.groups g hg)
  cases r with
  | version | ptype | shf | apid | processId | pktCat =>
    refine hread .pid fun (hg : s.pid = t.pid) => ?_
    rw [hg]
  | segFlag | seqCount =>
    refine hread .psc fun (hg : s.psc = t.psc) => ?_
    rw [hg]
  | rawLen | pktLen =>
    refine hread .len fun (hg : s.len = t.len) => ?_
    rw [hg]
  | pusVer | svcType | svcSubtype | destId | syncBit | timeSync | coarse | fine =>
    refine hread .dfh fun (hg : s.dfh = t.dfh) => ?_
    rw [hg]
  | utcKind | utcVal =>
    refine hread .utc fun (hg : s.utc = t.utc) => ?_
    rw [hg]
  | pktMissionId =>
    refine hread .mid fun (hg : s.pktMissionId = t.pktMissionId) => ?_
    rw [hg]
  | payloadOff | payloadLen =>
    refine hread .pay fun (hg : s.pay = t.pay) => ?_
    rw [hg]
  | bfxCnt => exact hread .bfx fun hg => by rw [hg.1]
  | bfx i =>
    simp only [State.readReg, State.readGroup, ← h.isValid .bfx]
    by_cases hg : s.isValid .bfx = true
    · obtain ⟨hcnt, hres⟩ := h.groups .bfx hg
      rw [← hcnt]
      split
      · rename_i hi
        rw [hres i hi]
      · rfl
    · simp [hg]
  | status | errCode | errUnit | errReqBits | errAvailBits | errCause | valid => simp only [State.readReg, h.stat]
  | _ => simp only [State.readReg, State.wlEntry, h.inp]

theorem Agree.sameReads {s t : State} (h : Agree s t) : SameReads s t := by
  intro n
  unfold State.hostRead
  rw [← h.cfg]
  split
  · exact h.readReg ..
  · rfl

end Sys2Proof.Machine

open Sys2Proof Sys2Proof.Machine

/-- Settles O47: the two runs stay in step, and states that agree read the same. -/
theorem commandsDependOnInputsAlone : Obligations.CommandsDependOnInputsAlone := by
  intro i s s' hin
  have hrun := hin.exec i
  refine ⟨fun t ht => ?_, fun r hr => ?_⟩
  · rw [ht] at hrun
    generalize exec i s' = x at hrun ⊢
    cases hrun with
    | next h => exact ⟨_, rfl, h.sameReads, h.inputs⟩
  · rw [hr] at hrun
    generalize exec i s' = x at hrun ⊢
    cases hrun
    rfl
end

section
/-! PROOFS, part 3. The host's accesses to the register map and to `BUF`: which numbers name a register, what a read of a
register returns, and which input register a write changes. -/

namespace Sys2Proof.Machine

/-! ### The register map -/

/-- The numbers that no row of the register map has (10_state section 10). -/
abbrev RegisterGap (c : Config) (n : Nat) : Prop :=
  (0x09 ≤ n ∧ n ≤ 0x0F) ∨ (0x10 + c.wlMax ≤ n ∧ n ≤ 0x1F) ∨ (0x27 ≤ n ∧ n ≤ 0x2F) ∨ (0x3A ≤ n ∧ n ≤ 0x3F) ∨
    (0x4D ≤ n ∧ n ≤ 0x4F) ∨ (0x51 ≤ n ∧ n ≤ 0x5F) ∨ 0x60 + c.wlMax ≤ n

theorem regOfNumber_of_gap {c : Config} {n : Nat} (hmin : 9 ≤ c.wlMax) (hmax : c.wlMax ≤ 16) (hn : RegisterGap c n) :
    regOfNumber c n = none := by
  cases h : regOfNumber c n with
  | none => rfl
  | some r =>
    obtain ⟨rfl, hi⟩ := eq_regNumber h
    unfold RegisterGap at hn
    cases r with
    | wl i | bfx i =>
      have := hi i (by simp)
      simp only [regNumber] at hn
      omega
    | _ =>
      simp only [regNumber] at hn
      omega

/-! ### Reads -/

theorem State.hostRead_of_reg {s : State} {n : Nat} {r : Reg} (hr : regOfNumber s.cfg n = some r) :
    s.hostRead n = s.readReg n r := by
  rw [State.hostRead, hr]

theorem State.hostRead_of_unimplemented {s : State} {n : Nat} (hn : regOfNumber s.cfg n = none) :
    s.hostRead n = .refused (.unimplementedRegister n) := by
  rw [State.hostRead, hn]

theorem State.readGroup_of_valid {s : State} {g : Group} (hg : s.isValid g = true) (n : Nat) (v : Int) :
    s.readGroup n g v = .next v := if_pos hg

theorem State.readGroup_of_invalid {s : State} {g : Group} (hg : s.isValid g = false) (n : Nat) (v : Int) :
    s.readGroup n g v = .fault (.invalidOutput n) := if_neg (by simp [hg])

/-- The output group that a register belongs to (10_state R42 to R48). -/
def Reg.group : Reg → Option Group
  | .version | .ptype | .shf | .apid | .processId | .pktCat => some .pid
  | .segFlag | .seqCount => some .psc
  | .rawLen | .pktLen => some .len
  | .pusVer | .svcType | .svcSubtype | .destId | .syncBit | .timeSync | .coarse | .fine => some .dfh
  | .utcKind | .utcVal => some .utc
  | .pktMissionId => some .mid
  | .payloadOff | .payloadLen => some .pay
  | .bfxCnt | .bfx _ => some .bfx
  | _ => none

theorem State.readReg_of_invalid {s : State} {r : Reg} {g : Group} (hr : r.group = some g) (hg : s.isValid g = false)
    (n : Nat) : s.readReg n r = .fault (.invalidOutput n) := by
  cases r with
  | bfx i =>
    cases hr
    simp only [State.readReg, State.readGroup_of_invalid hg, ite_self]
  | _ =>
    cases hr <;> exact State.readGroup_of_invalid hg ..

/-- A read of a register of an invalid group is a fault, whichever register of the group it is. -/
theorem State.hostRead_of_invalid {s : State} {n : Nat} {r : Reg} {g : Group} (hn : regOfNumber s.cfg n = some r)
    (hr : r.group = some g) (hg : s.isValid g = false) : s.hostRead n = .fault (.invalidOutput n) :=
  (State.hostRead_of_reg hn).trans (State.readReg_of_invalid hr hg n)

/-- A read of a result at or above `BFX_CNT` is a fault (10_state R48). -/
theorem State.hostRead_bfx_of_le {s : State} {i : Nat} (hmax : s.cfg.wlMax ≤ 16) (hi : i < s.cfg.wlMax)
    (hcnt : s.res.bfxCnt.toNat ≤ i) : s.hostRead (0x60 + i) = .fault (.invalidOutput (0x60 + i)) :=
  (State.hostRead_of_reg (regOfNumber_bfx hmax hi)).trans (if_neg (Nat.not_lt.mpr hcnt))

/-- A read of a result below `BFX_CNT` returns it while the results are valid. -/
theorem State.hostRead_bfx_of_lt {s : State} {i : Nat} (hmax : s.cfg.wlMax ≤ 16) (hi : i < s.cfg.wlMax)
    (hcnt : i < s.res.bfxCnt.toNat) (hg : s.isValid .bfx = true) :
    s.hostRead (0x60 + i) = .next (s.res.bfx.toList.getD i 0) :=
  (State.hostRead_of_reg (regOfNumber_bfx hmax hi)).trans ((if_pos hcnt).trans (State.readGroup_of_valid hg ..))

/-! ### Values and their registers -/

/-- An unsigned register holds a value that fits it. -/
theorem toNat_ofInt_of_fits {w : Nat} {v : Int} (hv : fitsUnsigned w v) : ((BitVec.ofInt w v).toNat : Int) = v := by
  obtain ⟨h0, hlt⟩ := hv
  obtain ⟨n, rfl⟩ := Int.eq_ofNat_of_zero_le h0
  rw [BitVec.ofInt_natCast, BitVec.toNat_ofNat, Nat.mod_eq_of_lt (by exact_mod_cast hlt)]

/-- A signed register holds a value that fits it. -/
theorem toInt_ofInt_of_fits {w : Nat} (hw : 0 < w) {v : Int} (hv : fitsSigned w v) : (BitVec.ofInt w v).toInt = v :=
  BitVec.toInt_ofInt_eq_self hw hv.1 hv.2

/-- `WL_CNT` is at most five bits wide, as `WL_MAX` is at most 16 (10_state R34). -/
theorem fitsUnsigned_five_of_wlCntWidth {c : Config} (hmax : c.wlMax ≤ 16) {v : Int} (hv : fitsUnsigned (wlCntWidth c) v) :
    fitsUnsigned 5 v := by
  have hwidth : wlCntWidth c ≤ 5 := by
    unfold wlCntWidth
    interval_cases c.wlMax <;> decide
  obtain ⟨h0, hlt⟩ := hv
  exact ⟨h0, hlt.trans_le (pow_le_pow_right₀ (by decide) hwidth)⟩

/-! ### Writes -/

theorem State.hostWrite_of_unimplemented {s : State} {n : Nat} (hn : regOfNumber s.cfg n = none) (v : Int) :
    s.hostWrite n v = .refused (.unimplementedRegister n) := by
  rw [State.hostWrite, hn]

theorem State.hostWrite_of_reg {s : State} {n : Nat} {r : Reg} (hr : regOfNumber s.cfg n = some r) (hcmd : r ≠ .cmd)
    (v : Int) : s.hostWrite n v = s.writeReg n r v := by
  rcases s.hostWrite_cases n v with ⟨h, -⟩ | ⟨h, -⟩ | ⟨r', -, h, e⟩ | ⟨h, -⟩ <;> rw [hr] at h <;> cases h
  · exact absurd rfl hcmd
  · exact absurd rfl hcmd
  · exact e

/-- A write to a number other than that of `CMD` that answers a next state is a write to the register of that number. -/
theorem State.hostWrite_ne_cmd_eq_next {s t : State} {n : Nat} {v : Int} (hn : n ≠ 0x00) (h : s.hostWrite n v = .next t) :
    ∃ r inp, r ≠ .cmd ∧ regOfNumber s.cfg n = some r ∧ RegWrite s v r inp ∧ t = { s with inp := inp } := by
  rcases s.hostWrite_cases n v with ⟨hr, -⟩ | ⟨hr, -⟩ | ⟨r, hcmd, hr, e⟩ | ⟨-, e⟩
  · exact absurd (eq_regNumber hr).1 hn
  · exact absurd (eq_regNumber hr).1 hn
  · obtain ⟨inp, hwrite, ht⟩ := State.writeReg_eq_next (e.symm.trans h)
    exact ⟨r, inp, hcmd, hr, hwrite, ht⟩
  · cases e.symm.trans h

/-- A write to a read-only register is ignored (10_state R22). -/
theorem State.writeReg_of_readOnly (s : State) (n : Nat) {r : Reg} (v : Int) (hr : 0x20 ≤ regNumber r)
    (hwl : ∀ i, r ≠ .wl i) : s.writeReg n r v = .next s := by
  cases r with
  | wl i => exact absurd rfl (hwl i)
  | bufLen | missionId | missionKnown | t0Valid | t0Us | scetInCoarse | scetInFine | wlCnt => exact absurd hr (by decide)
  | _ => rfl

theorem State.hostWrite_cmd_of_fits (s : State) {v : Int} (hv : fitsUnsigned 8 v) :
    s.hostWrite 0x00 v = exec (decode (BitVec.ofInt 8 v)) s := if_pos hv

/-- A write of a code to `CMD` runs the command with that code (10_state R25). -/
theorem State.hostWrite_cmd (s : State) (c : BitVec 8) : s.hostWrite 0x00 c.toNat = exec (decode c) s := by
  have hfits : fitsUnsigned 8 c.toNat := ⟨Int.natCast_nonneg _, by exact_mod_cast c.isLt⟩
  rw [State.hostWrite_cmd_of_fits s hfits, BitVec.ofInt_natCast, BitVec.ofNat_toNat, BitVec.setWidth_eq]

/-- A completed write is read back from its register. -/
theorem RegWrite.readReg_same {s : State} {v : Int} {r : Reg} {inp : Inputs} (h : RegWrite s v r inp)
    (hmax : s.cfg.wlMax ≤ 16) (hcmd : r ≠ .cmd) (hlt : regNumber r < 0x20) (n : Nat) :
    State.readReg { s with inp := inp } n r = .next v := by
  cases h with
  | bufLen hfits | missionKnown hfits | t0Valid hfits | scetInCoarse hfits | scetInFine hfits =>
    exact congrArg _ (toNat_ofInt_of_fits hfits)
  | wlCnt hfits => exact congrArg _ (toNat_ofInt_of_fits (fitsUnsigned_five_of_wlCntWidth hmax hfits))
  | missionId hfits | t0Us hfits => exact congrArg _ (toInt_ofInt_of_fits (by decide) hfits)
  | wl i hfits =>
    have hi : i < 16 := by
      simp only [regNumber] at hlt
      omega
    have hentry : State.wlEntry { s with inp := { s.inp with wl := s.inp.wl.setIfInBounds i (.holding (BitVec.ofInt 8 v)) } } i =
        .holding (BitVec.ofInt 8 v) := by
      simp [State.wlEntry, Vector.toList_setIfInBounds, hi]
    simp only [State.readReg, hentry]
    exact congrArg _ (toNat_ofInt_of_fits hfits)
  | ignored hro =>
    rcases hro with rfl | hro
    · exact absurd rfl hcmd
    · omega

/-- A completed write changes what is read from its own register alone. -/
theorem RegWrite.readReg_of_ne {s : State} {v : Int} {r r' : Reg} {inp : Inputs} (h : RegWrite s v r inp) (hne : r' ≠ r)
    (n : Nat) : State.readReg { s with inp := inp } n r' = s.readReg n r' := by
  cases h with
  | bufLen => cases r' with | bufLen => exact absurd rfl hne | _ => rfl
  | missionId => cases r' with | missionId => exact absurd rfl hne | _ => rfl
  | missionKnown => cases r' with | missionKnown => exact absurd rfl hne | _ => rfl
  | t0Valid => cases r' with | t0Valid => exact absurd rfl hne | _ => rfl
  | t0Us => cases r' with | t0Us => exact absurd rfl hne | _ => rfl
  | scetInCoarse => cases r' with | scetInCoarse => exact absurd rfl hne | _ => rfl
  | scetInFine => cases r' with | scetInFine => exact absurd rfl hne | _ => rfl
  | wlCnt => cases r' with | wlCnt => exact absurd rfl hne | _ => rfl
  | wl i =>
    cases r' with
    | wl j =>
      have hij : i ≠ j := fun hij => hne (congrArg Reg.wl hij.symm)
      simp [State.readReg, State.wlEntry, Vector.toList_setIfInBounds, List.getElem?_set_ne hij]
    | _ => rfl
  | ignored => rfl

/-- A write of `T0_VALID` or `T0_US` completes when it leaves no `T0_US` out of range beside `T0_VALID = 1`. -/
theorem checkedT0_of_inRange {t : State}
    (h : t.inp.t0Valid = 1 → t.inp.t0Us.held = true → t0InRange t.inp.t0Us.value.toInt) : checkedT0 t = .next t :=
  if_neg fun ⟨hvalid, hheld, hout⟩ => hout (h hvalid hheld)

theorem checkedT0_of_outOfRange {t : State} (hvalid : t.inp.t0Valid = 1) (hheld : t.inp.t0Us.held = true)
    (hout : ¬ t0InRange t.inp.t0Us.value.toInt) : checkedT0 t = .refused .t0OutOfRange :=
  if_pos ⟨hvalid, hheld, hout⟩

theorem State.hostWrite_t0Valid_of_fits (s : State) {v : Int} (hv : fitsUnsigned 1 v) :
    s.hostWrite 0x04 v = checkedT0 { s with inp := { s.inp with t0Valid := BitVec.ofInt 1 v } } :=
  if_neg (not_not.mpr hv)

theorem State.hostWrite_t0Us_of_fits (s : State) {v : Int} (hv : fitsSigned 64 v) :
    s.hostWrite 0x05 v = checkedT0 { s with inp := { s.inp with t0Us := .holding (BitVec.ofInt 64 v) } } :=
  if_neg (not_not.mpr hv)

theorem checkedWrite_of_fits {p : Prop} [Decidable p] (hp : p) (n : Nat) (t : State) : checkedWrite n p t = .next t :=
  if_pos (decide_eq_true hp)

theorem checkedWrite_of_not_fits {p : Prop} [Decidable p] (hp : ¬ p) (n : Nat) (t : State) :
    checkedWrite n p t = .refused (.valueTooWide n) :=
  if_neg (by simpa using hp)

theorem LegalWrite.number_lt {s : State} {n : Nat} {v : Int} (hmax : s.cfg.wlMax ≤ 16) (h : LegalWrite s n v) :
    n ≠ 0x00 ∧ n < 0x20 := by
  rcases h with ⟨rfl, -⟩ | ⟨rfl, -⟩ | ⟨rfl, -⟩ | ⟨rfl, -⟩ | ⟨rfl, -⟩ | ⟨rfl, -⟩ | ⟨rfl, -⟩ | ⟨rfl, -⟩ | ⟨hlow, hhigh, -⟩ <;> omega

/-- A write that R275 leaves the host free to make completes. -/
theorem LegalWrite.completes {s : State} {n : Nat} {v : Int} (hc : s.cfg.WellFormed) (h : LegalWrite s n v) :
    ∃ t, s.hostWrite n v = .next t := by
  obtain ⟨-, hbuf, -, hmax, -⟩ := hc
  rcases h with ⟨rfl, h0, hle⟩ | ⟨rfl, hfits⟩ | ⟨rfl, hv⟩ | ⟨rfl, hv⟩ | ⟨rfl, hfits, hrange⟩ | ⟨rfl, hfits⟩ | ⟨rfl, hfits⟩ |
    ⟨rfl, hfits⟩ | ⟨hlow, hhigh, hfits⟩
  · have hfits : fitsUnsigned 32 v := by omega
    exact ⟨_, (if_neg (not_not.mpr hfits)).trans (if_neg (not_lt.mpr hle))⟩
  · exact ⟨_, checkedWrite_of_fits hfits ..⟩
  · have hfits : fitsUnsigned 1 v := by omega
    have hheld : ¬ (v = 1 ∧ s.inp.missionId.held = false) := by
      rcases hv with rfl | ⟨-, hheld⟩
      · simp
      · simp [hheld]
    exact ⟨_, (if_neg hheld).trans (checkedWrite_of_fits hfits ..)⟩
  · have hfits : fitsUnsigned 1 v := by omega
    refine ⟨_, (s.hostWrite_t0Valid_of_fits hfits).trans (checkedT0_of_inRange fun hvalid hheld => ?_)⟩
    rcases hv with rfl | ⟨-, hrange⟩
    · exact absurd hvalid (show BitVec.ofInt 1 0 ≠ 1 by decide)
    · exact hrange hheld
  · refine ⟨_, (s.hostWrite_t0Us_of_fits hfits).trans (checkedT0_of_inRange fun hvalid _ => ?_)⟩
    exact (toInt_ofInt_of_fits (w := 64) (by decide) hfits).symm ▸ hrange hvalid
  · exact ⟨_, checkedWrite_of_fits hfits ..⟩
  · exact ⟨_, checkedWrite_of_fits hfits ..⟩
  · exact ⟨_, checkedWrite_of_fits hfits ..⟩
  · obtain ⟨i, rfl⟩ := Nat.exists_eq_add_of_le hlow
    have hr : regOfNumber s.cfg (0x10 + i) = some (.wl i) := regOfNumber_wl (by omega) (by omega)
    exact ⟨_, (State.hostWrite_of_reg hr nofun v).trans (checkedWrite_of_fits hfits ..)⟩

/-! ### `BUF` -/

/-- A read of a byte after a write of one: the byte written at its offset, every other offset as before. -/
theorem State.hostReadByte_write (s : State) (a : Nat) (b : Byte) (a' : Nat) (ha : a < s.cfg.bufMax) :
    State.hostReadByte { s with buf := Memory.write s.buf a b } a' = if a' = a then .next b.toNat else s.hostReadByte a' := by
  unfold State.hostReadByte
  simp only [Memory.read_write]
  by_cases h : a' = a
  · subst h
    simp [ha]
  · simp only [h, if_false]

/-- A step whose move writes a code to `CMD` runs the command with that code. -/
theorem step_of_command_write {s : State} {c : BitVec 8} {rest : List HostAction}
    (h : s.host = .writeReg 0x00 c.toNat :: rest) : step s = exec (decode c) (s.popAction rest) :=
  (step_of_host_eq_cons h).trans (State.hostWrite_cmd (s.popAction rest) c)

end Sys2Proof.Machine

open Sys2Proof Sys2Proof.Machine

/-- Settles O6: a completed write to a number other than that of `CMD` is a write to an input register, or to a read-only
one, and ignored. -/
theorem hostWritesChangeInputsOnly : Obligations.HostWritesChangeInputsOnly := by
  refine ⟨fun s t n v hn h => ?_, fun s n v ⟨_, _, _, hmax, _⟩ hn himpl => ?_⟩
  · obtain ⟨r, inp, -, -, -, rfl⟩ := State.hostWrite_ne_cmd_eq_next hn h
    rfl
  · obtain ⟨r, hr⟩ := Option.ne_none_iff_exists'.mp himpl
    obtain ⟨rfl, hi⟩ := eq_regNumber hr
    have hcmd : r ≠ .cmd := by
      rintro rfl
      exact absurd hn (by decide)
    have hwl : ∀ i, r ≠ .wl i := by
      rintro i rfl
      have := hi i (.inl rfl)
      simp only [regNumber] at hn
      omega
    rw [State.hostWrite_of_reg hr hcmd, State.writeReg_of_readOnly s _ v hn hwl]

/-- Settles O7: a number names one register, and a completed write changes one register. -/
theorem hostReadsBackWhatItWrote : Obligations.HostReadsBackWhatItWrote := by
  intro s t n v ⟨_, _, _, hmax, _⟩ hn hlt h
  obtain ⟨r, inp, hcmd, hr, hwrite, rfl⟩ := State.hostWrite_ne_cmd_eq_next hn h
  have hnum := (eq_regNumber hr).1
  have hreads {m : Nat} {r' : Reg} (hr' : regOfNumber s.cfg m = some r') :
      State.hostRead { s with inp := inp } m = State.readReg { s with inp := inp } m r' := State.hostRead_of_reg hr'
  refine ⟨?_, fun m hm => ?_⟩
  · exact (hreads hr).trans (hwrite.readReg_same hmax hcmd (hnum ▸ hlt) n)
  · cases hr' : regOfNumber s.cfg m with
    | none =>
      rw [State.hostRead_of_unimplemented hr']
      exact State.hostRead_of_unimplemented hr'
    | some r' =>
      have hne : r' ≠ r := fun e => hm ((eq_regNumber hr').1.trans (e ▸ hnum.symm))
      rw [State.hostRead_of_reg hr', ← hwrite.readReg_of_ne hne m]
      exact hreads hr'

/-- Settles O8: a legal write completes, and a completed write reads back (O7). -/
theorem legalHostWritesComplete : Obligations.LegalHostWritesComplete := by
  intro s n v hc h
  obtain ⟨t, ht⟩ := LegalWrite.completes hc h
  obtain ⟨hn, hlt⟩ := LegalWrite.number_lt hc.2.2.2.1 h
  exact ⟨t, ht, (hostReadsBackWhatItWrote s t n v hc hn hlt ht).1⟩

/-- Settles O10: no register has a number in a gap of the map. -/
theorem unimplementedNumbersAreRefused : Obligations.UnimplementedNumbersAreRefused := by
  intro s n v ⟨_, _, hmin, hmax, _⟩ hn
  have hnone := regOfNumber_of_gap hmin hmax hn
  exact ⟨State.hostRead_of_unimplemented hnone, State.hostWrite_of_unimplemented hnone v⟩

/-- Settles O11, by the read after a write of the memory. -/
theorem bufferByteReadsBack : Obligations.BufferByteReadsBack := by
  intro s a b ha
  refine ⟨_, if_pos ha, rfl, ?_, fun a' ha' => ?_⟩
  · rw [State.hostReadByte_write _ _ _ _ ha, if_pos rfl]
  · rw [State.hostReadByte_write _ _ _ _ ha, if_neg ha']

/-- Settles O12: every number of a group's range names a register of the group. -/
theorem invalidGroupsCannotBeRead : Obligations.InvalidGroupsCannotBeRead := by
  intro s n ⟨_, _, _, hmax, _⟩
  refine ⟨fun hg hlow hhigh => ?_, fun hg hlow hhigh => ?_, fun hg hlow hhigh => ?_, fun hg hlow hhigh => ?_,
    fun hg hlow hhigh => ?_, fun hg hn => ?_, fun hg hlow hhigh => ?_, fun hg hn => ?_, fun _ hlow hhigh => ?_⟩
  case refine_6 =>
    subst hn
    exact State.hostRead_of_invalid rfl rfl hg
  case refine_8 =>
    rcases hn with rfl | ⟨hlow, hhigh⟩
    · exact State.hostRead_of_invalid rfl rfl hg
    · obtain ⟨i, rfl⟩ := Nat.exists_eq_add_of_le hlow
      exact State.hostRead_of_invalid (regOfNumber_bfx hmax (by omega)) rfl hg
  case refine_9 =>
    obtain ⟨i, rfl⟩ := Nat.exists_eq_add_of_le ((Nat.le_add_right _ _).trans hlow)
    exact State.hostRead_bfx_of_le hmax (by omega) (by omega)
  all_goals interval_cases n <;> exact State.hostRead_of_invalid rfl rfl hg

/-- Settles O3, by what a write to `CMD` does. -/
theorem stepRunsTheCommandWrittenToCmd : Obligations.StepRunsTheCommandWrittenToCmd := fun _ _ _ h =>
  step_of_command_write h

/-- Settles O4: the word placed is a write to `CMD` at the head of the host's list. -/
theorem placedWordRunsNext : Obligations.PlacedWordRunsNext := fun _ w _ =>
  step_of_command_write (c := BitVec.ofNat 8 w) rfl

/-- Settles O9, each write by the check that refuses it. -/
theorem illegalHostWritesAreRefused : Obligations.IllegalHostWritesAreRefused := by
  refine ⟨fun s n v hn => State.hostWrite_of_unimplemented hn v, fun s v hlow hhigh => ?_, fun s v hvalid hout hfits => ?_,
    fun s hheld hout => ?_, fun s hheld => if_pos ⟨rfl, hheld⟩, fun s v => ⟨fun hv => if_neg hv, fun hv => if_pos hv,
      fun hv => checkedWrite_of_not_fits hv .., fun hv => ?_, fun hv => if_pos hv, fun hv => if_pos hv,
      fun hv => checkedWrite_of_not_fits hv .., fun hv => checkedWrite_of_not_fits hv ..,
      fun hv => checkedWrite_of_not_fits hv .., fun n ⟨_, _, _, hmax, _⟩ hlow hhigh hv => ?_⟩⟩
  · have hfits : fitsUnsigned 32 v := by omega
    exact (if_neg (not_not.mpr hfits)).trans (if_pos hlow)
  · refine (s.hostWrite_t0Us_of_fits hfits).trans (checkedT0_of_outOfRange hvalid rfl ?_)
    exact (toInt_ofInt_of_fits (w := 64) (by decide) hfits).symm ▸ hout
  · exact (s.hostWrite_t0Valid_of_fits (by decide)).trans (checkedT0_of_outOfRange rfl hheld hout)
  · refine (if_neg fun ⟨hone, _⟩ => hv ?_).trans (checkedWrite_of_not_fits hv ..)
    omega
  · obtain ⟨i, rfl⟩ := Nat.exists_eq_add_of_le hlow
    have hr : regOfNumber s.cfg (0x10 + i) = some (.wl i) := regOfNumber_wl (by omega) (by omega)
    exact (State.hostWrite_of_reg hr nofun v).trans (checkedWrite_of_not_fits hv ..)

/-- Settles O13: a status register has no valid bit, and a register of a valid group is read as it stands. -/
theorem outputsReadAsTheirRegisters : Obligations.OutputsReadAsTheirRegisters := by
  intro s ⟨_, _, _, hmax, _⟩
  refine ⟨⟨rfl, rfl, rfl, rfl, rfl, rfl, rfl⟩, fun hg => ?_, fun hg => ?_, fun hg => ?_, fun hg => ?_, fun hg => ?_, fun hg => ?_,
    fun hg => ?_, fun hg => ⟨State.readGroup_of_valid hg .., fun i hcnt hi => State.hostRead_bfx_of_lt hmax hi hcnt hg⟩⟩
  all_goals
    repeat' apply And.intro
    all_goals exact State.readGroup_of_valid hg ..

/-- Settles O14, by the register map. -/
theorem inputsReadAsTheirRegisters : Obligations.InputsReadAsTheirRegisters := by
  refine fun s => ⟨rfl, rfl, rfl, rfl, rfl, rfl, rfl, rfl, rfl, fun i hi hmax => ?_⟩
  exact State.hostRead_of_reg (regOfNumber_wl hi hmax)

/-- Settles O18, by unfolding the prologue. -/
theorem prologueClearsStatusAndValid : Obligations.PrologueClearsStatusAndValid := by
  refine fun s => ⟨rfl, fun g => ?_⟩
  simp [State.isValid, StatusRegs.reset]
end

section
/-! PROOFS, part 4. How a command ends: its status registers, and the output groups it does not write. -/

namespace Sys2Proof.Machine

/-! ### The end of a command -/

/-- The status registers of a command that has ended with warning bit `w`: with no error, or with an error recorded. -/
inductive StatusRegs.Ended (w : BitVec 1) : StatusRegs → Prop
  | success (valid : BitVec 9) : Ended w (.success w valid)
  | failure {code : BitVec 3} (hcode : code ≠ 0) (unit : BitVec 3) (req avail : Nat) (cause : BitVec 2) (valid : BitVec 9) :
    Ended w (.failure w code unit req avail cause valid)

/-- DONE is set, ERR tells whether there is an error code, and the warning bit is `w` (10_state R33, R41). -/
theorem StatusRegs.Ended.bits {w : BitVec 1} {st : StatusRegs} (h : st.Ended w) :
    st.status.getLsbD 0 = true ∧ (st.status.getLsbD 1 = true ↔ st.errCode ≠ 0) ∧ (st.status.getLsbD 2 = true ↔ w = 1) := by
  cases h with
  | success valid =>
    have hbits : ∀ w : BitVec 1, (w ++ 0b01#2).getLsbD 0 = true ∧ (w ++ 0b01#2).getLsbD 1 = false ∧
        ((w ++ 0b01#2).getLsbD 2 = true ↔ w = 1) := by decide
    obtain ⟨hdone, herr, hwarn⟩ := hbits w
    exact ⟨hdone, ⟨fun h => absurd (herr.symm.trans h) Bool.false_ne_true, fun h => absurd rfl h⟩, hwarn⟩
  | failure hcode =>
    have hbits : ∀ w : BitVec 1, (w ++ 0b11#2).getLsbD 0 = true ∧ (w ++ 0b11#2).getLsbD 1 = true ∧
        ((w ++ 0b11#2).getLsbD 2 = true ↔ w = 1) := by decide
    obtain ⟨hdone, herr, hwarn⟩ := hbits w
    exact ⟨hdone, ⟨fun _ => hcode, fun _ => herr⟩, hwarn⟩

/-- The registers of group `g` hold in `t` what they held in `s`. -/
def GroupKept (s t : State) : Group → Prop
  | .pid => t.pid = s.pid
  | .psc => t.psc = s.psc
  | .len => t.len = s.len
  | .dfh => t.dfh = s.dfh
  | .utc => t.utc = s.utc
  | .pay => t.pay = s.pay
  | .mid => t.pktMissionId = s.pktMissionId
  | .pkt => True
  | .bfx => t.res = s.res

/-- A command that ran from `s` has ended in `t` with warning bit `w`; a group not listed in `written` holds what it held, and
is not valid (10_state R40). -/
structure CommandEnd (w : BitVec 1) (written : List Group) (s t : State) : Prop where
  status : t.stat.Ended w
  kept : ∀ g ∉ written, GroupKept s t g ∧ t.isValid g = false

/-- A command that raises before it has decoded anything writes no group. -/
theorem CommandEnd.of_early_failure (w : BitVec 1) (written : List Group) (s : State) (eph : EphPort) {e u : BitVec 3}
    {r a : Nat} {k : BitVec 2} (he : e ≠ 0) :
    CommandEnd w written s { s with stat := .failure w e u r a k 0, eph := eph } where
  status := .failure he ..
  kept g _ := by
    refine ⟨?_, by simp [State.isValid, StatusRegs.failure]⟩
    cases g with
    | pkt => trivial
    | _ => rfl

/-- A command that has decoded groups: the valid bits and the registers of the others are looked at one by one. -/
theorem CommandEnd.of_groups {w : BitVec 1} {written : List Group} {s t : State} (hstatus : t.stat.Ended w)
    (hkept : ∀ g ∈ [Group.pid, .psc, .len, .dfh, .utc, .pay, .mid, .pkt, .bfx], g ∉ written →
      GroupKept s t g ∧ t.stat.valid.getLsbD g.bit = false) : CommandEnd w written s t where
  status := hstatus
  kept g hg := hkept g (by cases g <;> simp) hg

/-- The output groups that a command writes: the columns "written by" of 10_state R42 to R48. -/
def groupsWritten : Instr → List Group
  | .clr | .reserved _ => []
  | .bfx => [.bfx]
  | .dpid => [.pid]
  | .dpsc => [.psc]
  | .dsph => [.pid, .psc, .len]
  | .tres => [.utc]
  | .ddfh => [.dfh, .utc]
  | .dpkt => [.pid, .psc, .len, .dfh, .utc, .pay, .mid, .pkt]

/-- The warning bit of a command that runs from `s`: DPKT alone warns, of an unknown mission (60_exceptions R228). -/
def warningBit (i : Instr) (s : State) : BitVec 1 := if i = .dpkt then 1 - s.inp.missionKnown else 0

/-! Each command's end, by the cases of what it can do. -/

theorem execClr_end {s t : State} (h : execClr s = .next t) : CommandEnd 0 [] s t := by
  cases (execClr_eq s).symm.trans h
  exact .of_groups (.success _) (by simp [GroupKept, StatusRegs.success])

theorem execReserved_end (code : BitVec 8) {s t : State} (h : execReserved code s = .next t) : CommandEnd 0 [] s t := by
  cases (execReserved_eq code s).symm.trans h
  exact .of_early_failure _ _ s _ (by decide)

theorem execBfx_end {s t : State} (h : execBfx s = .next t) : CommandEnd 0 [.bfx] s t := by
  rcases execBfx_cases s with
    ⟨-, e⟩ | ⟨-, _, -, -, e⟩ | ⟨-, _, -, e⟩ | ⟨-, -, e⟩ | ⟨-, -, -, e⟩ | ⟨-, -, _, -, -, e⟩ <;> cases e.symm.trans h
  · exact .of_early_failure _ _ s _ (by decide)
  · exact .of_early_failure _ _ s _ (by decide)
  · exact .of_early_failure _ _ s _ (by decide)
  · exact .of_groups (.success _) (by simp [GroupKept, StatusRegs.success, Group.bit])

theorem execDpid_end {s t : State} (h : execDpid s = .next t) : CommandEnd 0 [.pid] s t := by
  rcases execDpid_cases s with ⟨-, e⟩ | ⟨-, -, e⟩ | ⟨-, _, -, -, e⟩ <;> cases e.symm.trans h
  · exact .of_early_failure _ _ s _ (by decide)
  · exact .of_groups (.success _) (by simp [GroupKept, StatusRegs.success, Group.bit])

theorem execDpsc_end {s t : State} (h : execDpsc s = .next t) : CommandEnd 0 [.psc] s t := by
  rcases execDpsc_cases s with ⟨-, e⟩ | ⟨-, -, e⟩ | ⟨-, _, -, -, e⟩ <;> cases e.symm.trans h
  · exact .of_early_failure _ _ s _ (by decide)
  · exact .of_groups (.success _) (by simp [GroupKept, StatusRegs.success, Group.bit])

theorem execDsph_end {s t : State} (h : execDsph s = .next t) : CommandEnd 0 [.pid, .psc, .len] s t := by
  rcases execDsph_cases s with ⟨-, e⟩ | ⟨-, -, e⟩ | ⟨-, _, -, -, e⟩ <;> cases e.symm.trans h
  · exact .of_early_failure _ _ s _ (by decide)
  · exact .of_groups (.success _) (by simp [GroupKept, StatusRegs.success, Group.bit])

theorem execTres_end {s t : State} (h : execTres s = .next t) : CommandEnd 0 [.utc] s t := by
  rcases execTres_cases s with ⟨-, -, -, -, e⟩ | ⟨-, -, e⟩ | ⟨-, -, -, -, -, -, e⟩ | ⟨-, -, -, -, -, -, e⟩ | ⟨-, _, -, e⟩ <;>
    cases e.symm.trans h
  · exact .of_groups (.success _) (by simp [GroupKept, StatusRegs.success, Group.bit])
  · exact .of_early_failure _ _ s _ (by decide)
  · exact .of_early_failure _ _ s _ (by decide)
  · exact .of_groups (.success _) (by simp [GroupKept, StatusRegs.success, Group.bit])

theorem execDdfh_end {s t : State} (h : execDdfh s = .next t) : CommandEnd 0 [.dfh, .utc] s t := by
  rcases execDdfh_cases s with ⟨-, e⟩ | ⟨-, -, _, _, -, e⟩ | ⟨-, -, -, -, -, e⟩ | ⟨-, -, -, -, -, -, -, e⟩ |
    ⟨-, -, -, -, _, -, e⟩ | ⟨-, _, -, -, e⟩ <;> cases e.symm.trans h
  · exact .of_early_failure _ _ s _ (by decide)
  · exact .of_groups (.success _) (by simp [GroupKept, StatusRegs.success, Group.bit])
  · exact .of_groups (.failure (by decide) ..) (by simp [GroupKept, StatusRegs.failure, Group.bit])
  · exact .of_groups (.failure (by decide) ..) (by simp [GroupKept, StatusRegs.failure, Group.bit])

/-- The end of a DPKT that has decoded everything: no error, or a consistency error. -/
theorem State.packetStatus_ended (s : State) : s.packetStatus.Ended (1 - s.inp.missionKnown) := by
  unfold State.packetStatus
  split
  · exact .failure (by decide) ..
  · exact .success _

theorem execDpkt_end {s t : State} (h : execDpkt s = .next t) :
    CommandEnd (1 - s.inp.missionKnown) [.pid, .psc, .len, .dfh, .utc, .pay, .mid, .pkt] s t := by
  rcases execDpkt_cases s with
    ⟨-, e⟩ | ⟨-, -, -, _, _, -, e⟩ | ⟨-, -, -, hknown, -, -, -, e⟩ | ⟨-, -, -, _, -, e⟩ | ⟨-, _, -, -, e⟩ <;>
    cases e.symm.trans h
  · exact .of_early_failure _ _ s _ (by decide)
  · exact .of_groups s.packetStatus_ended (by simpa [GroupKept, Group.bit] using s.packetStatus_valid.1)
  · rw [hknown]
    exact .of_groups (.failure (by decide) ..) (by simp [GroupKept, StatusRegs.failure, Group.bit])

theorem exec_end {i : Instr} {s t : State} (h : exec i s = .next t) : CommandEnd (warningBit i s) (groupsWritten i) s t := by
  cases i with
  | clr => exact execClr_end h
  | bfx => exact execBfx_end h
  | dpid => exact execDpid_end h
  | dpsc => exact execDpsc_end h
  | dsph => exact execDsph_end h
  | tres => exact execTres_end h
  | ddfh => exact execDdfh_end h
  | dpkt => exact execDpkt_end h
  | reserved code => exact execReserved_end code h

theorem warningBit_eq_one_iff (i : Instr) (s : State) : warningBit i s = 1 ↔ i = .dpkt ∧ s.inp.missionKnown = 0 := by
  have hflip : ∀ k : BitVec 1, 1 - k = 1 ↔ k = 0 := by decide
  unfold warningBit
  split
  · rename_i hi
    exact (hflip _).trans (and_iff_right hi).symm
  · rename_i hi
    exact ⟨fun h => absurd h (by decide), fun h => absurd h.1 hi⟩

/-- A DPKT that sets the packet bit ends with no error and with every group it writes valid, but the mission identifier of an
unknown mission. -/
theorem execDpkt_stat_of_packet_valid {s t : State} (h : execDpkt s = .next t) (hpkt : t.isValid .pkt = true) :
    t.stat = .success (1 - s.inp.missionKnown) (writeBit 0x0BF 6 s.inp.missionKnown) := by
  rcases execDpkt_cases s with
    ⟨-, e⟩ | ⟨-, -, -, _, _, -, e⟩ | ⟨-, -, -, -, -, -, -, e⟩ | ⟨-, -, -, _, -, e⟩ | ⟨-, _, -, -, e⟩ <;>
    cases e.symm.trans h
  · exact absurd (show (0x000 : BitVec 9).getLsbD 7 = true from hpkt) (by decide)
  · have hfailed : ∀ b : BitVec 1, (writeBit (0x03F : BitVec 9) 6 b).getLsbD 7 = false := by decide
    replace hpkt : s.packetStatus.valid.getLsbD 7 = true := hpkt
    show s.packetStatus = _
    unfold State.packetStatus at hpkt ⊢
    split at hpkt
    · exact absurd ((hfailed _).symm.trans hpkt) Bool.false_ne_true
    · rename_i hlen
      exact if_neg hlen
  · exact absurd (show (0x06F : BitVec 9).getLsbD 7 = true from hpkt) (by decide)

end Sys2Proof.Machine

open Sys2Proof Sys2Proof.Machine

/-- Settles O50, by the status registers of a command that has ended. -/
theorem statusTellsTheOutcome : Obligations.StatusTellsTheOutcome := by
  intro i s t h
  obtain ⟨hdone, herr, hwarn⟩ := (exec_end h).status.bits
  exact ⟨hdone, herr, hwarn.trans (warningBit_eq_one_iff i s)⟩

/-- Settles O52: a group is kept, and is not valid, unless it is among those the command writes. -/
theorem outputsChangeOnlyByTheirCommands : Obligations.OutputsChangeOnlyByTheirCommands := by
  intro i s t h
  have hkept := (exec_end h).kept
  refine ⟨fun hi => hkept .pid ?_, fun hi => hkept .psc ?_, fun hi => hkept .len ?_, fun hi => hkept .dfh ?_,
    fun hi => hkept .utc ?_, fun hi => hkept .mid ?_,
    fun hi => ⟨(hkept .pay ?_).1, (hkept .pay ?_).2, (hkept .pkt ?_).2⟩, fun hi => hkept .bfx ?_⟩
  all_goals cases i <;> simp [groupsWritten] at hi ⊢

/-- Settles O54: DPKT alone writes the packet bit, and sets it at the end of a whole packet. -/
theorem packetBitMeansAWholePacket : Obligations.PacketBitMeansAWholePacket := by
  intro i s t h hpkt
  have hi : i = .dpkt := by
    by_contra hi
    have hnot : Group.pkt ∉ groupsWritten i := by cases i <;> simp [groupsWritten] at hi ⊢
    exact absurd (((exec_end h).kept .pkt hnot).2.symm.trans hpkt) Bool.false_ne_true
  subst hi
  have hstat := execDpkt_stat_of_packet_valid h hpkt
  simp only [State.isValid, hstat, StatusRegs.success]
  have hvalid : ∀ b : BitVec 1, ∀ g ∈ [Group.pid, .psc, .len, .dfh, .utc, .pay],
      (writeBit (0x0BF : BitVec 9) 6 b).getLsbD g.bit = true := by decide
  have hmid : ∀ b : BitVec 1, (writeBit (0x0BF : BitVec 9) 6 b).getLsbD 6 = true ↔ b = 1 := by decide
  exact ⟨trivial, trivial, hvalid _ _ (by simp), hvalid _ _ (by simp), hvalid _ _ (by simp), hvalid _ _ (by simp), hvalid _ _ (by simp),
    hvalid _ _ (by simp), hmid _⟩
end

section
/-! PROOFS, part 5. The texts of UTC values: the shape of a text, and the days whose year is one of 0001 to 9999. -/

namespace Sys2Proof.Machine

/-! ### Decimal digits -/

@[simp] theorem decimalDigits_length (width n : Nat) : (decimalDigits width n).length = width := by
  induction width generalizing n with
  | zero => rfl
  | succ width ih => rw [decimalDigits, List.length_append, ih, List.length_singleton]

/-- Every character is a digit. -/
theorem decimalDigits_getElem? (width n : Nat) {j : Nat} (hj : j < width) :
    ∃ d, d < 10 ∧ (decimalDigits width n)[j]? = some (Char.ofNat (48 + d)) := by
  induction width generalizing n with
  | zero => omega
  | succ width ih =>
    rw [decimalDigits]
    rcases Nat.lt_succ_iff_lt_or_eq.mp hj with hlt | rfl
    · rw [List.getElem?_append_left (by simpa using hlt)]
      exact ih (n / 10) hlt
    · rw [List.getElem?_append_right (by simp)]
      exact ⟨n % 10, Nat.mod_lt _ (by decide), by simp⟩

/-! ### The shape of a text -/

/-- A text whose second has `digits` fraction digits: 19 characters of date and time, the point, the digits, and a Z. -/
structure UtcShape (digits : Nat) (text : List Char) : Prop where
  length : text.length = 21 + digits
  point : text[19]? = some '.'
  last : text.getLast? = some 'Z'
  fraction : ∀ i, 20 ≤ i → i < 20 + digits → ∃ d, d < 10 ∧ text[i]? = some (Char.ofNat (48 + d))

theorem UtcShape.of_append {dateTime : List Char} (hlen : dateTime.length = 19) (digits n : Nat) :
    UtcShape digits (dateTime ++ ['.'] ++ decimalDigits digits n ++ ['Z']) := by
  have hhead : (dateTime ++ ['.']).length = 20 := by rw [List.length_append, hlen, List.length_singleton]
  have hbody : (dateTime ++ ['.'] ++ decimalDigits digits n).length = 20 + digits := by
    rw [List.length_append, hhead, decimalDigits_length]
  refine ⟨?_, by simp [hlen], List.getLast?_concat, fun i hlow hhigh => ?_⟩
  · rw [List.length_append, hbody, List.length_singleton]
    omega
  · obtain ⟨j, rfl⟩ := Nat.exists_eq_add_of_le hlow
    rw [List.getElem?_append_left (hbody ▸ hhigh), List.getElem?_append_right (hhead ▸ hlow), hhead, Nat.add_sub_cancel_left]
    exact decimalDigits_getElem? digits n (by omega)

/-- Every text has the shape, date and time being 19 characters (42_time_resolver R166). -/
theorem formatUtc_shape {secs frac : Int} {digits : Nat} {text : List Char} (h : formatUtc secs frac digits = some text) :
    UtcShape digits text := by
  unfold formatUtc at h
  dsimp only at h
  split at h
  · cases h
    exact .of_append (by simp) digits _
  · cases h

theorem formatUtc_isSome_iff (secs frac : Int) (digits : Nat) :
    (formatUtc secs frac digits).isSome = true ↔
      1 ≤ (civilFromDays (secs / 86400)).year ∧ (civilFromDays (secs / 86400)).year ≤ 9999 := by
  unfold formatUtc
  dsimp only
  split
  · rename_i hyear
    simp [hyear]
  · rename_i hyear
    simp [hyear]

/-! ### The days of the years 1 to 9999 -/

/-- The 400 years of an era: its last day is the only one that needs the correction by `doe / 146096`. -/
theorem yearOfEra_bounds {doe : Int} (hlow : 0 ≤ doe) (hhigh : doe ≤ 146096) :
    0 ≤ (doe - doe / 1460 + doe / 36524 - doe / 146096) / 365 ∧
      (doe - doe / 1460 + doe / 36524 - doe / 146096) / 365 ≤ 399 := by
  have hlast : doe / 36524 ≤ 3 ∨ doe / 146096 = 1 := by omega
  omega

theorem one_le_civilFromDays_year_iff (days : Int) : 1 ≤ (civilFromDays days).year ↔ -719162 ≤ days := by
  have hyoe := yearOfEra_bounds (doe := days + 719468 - (days + 719468) / 146097 * 146097) (by omega) (by omega)
  simp only [civilFromDays]
  omega

theorem civilFromDays_year_le_iff (days : Int) : (civilFromDays days).year ≤ 9999 ↔ days ≤ 2932896 := by
  have hyoe := yearOfEra_bounds (doe := days + 719468 - (days + 719468) / 146097 * 146097) (by omega) (by omega)
  simp only [civilFromDays]
  omega

/-- A count of microseconds lies in the years 1 to 9999 exactly when its day does (10_state R31). -/
theorem t0InRange_iff (v : Int) : t0InRange v ↔ -719162 ≤ v / 1000000 / 86400 ∧ v / 1000000 / 86400 ≤ 2932896 := by
  omega

end Sys2Proof.Machine

open Sys2Proof Sys2Proof.Machine

/-- Settles O59, by the shape of a formatted time and the days of the years 1 to 9999. -/
theorem utcTextsHaveTheirForm : Obligations.UtcTextsHaveTheirForm := by
  refine ⟨by decide, fun v text h => ?_, fun v text h => ?_, fun v => ?_⟩
  · obtain ⟨hlen, hpoint, hlast, hfraction⟩ := formatUtc_shape (digits := 6) h
    exact ⟨hlen, hpoint, hlast, hfraction⟩
  · obtain ⟨hlen, hpoint, hlast, hfraction⟩ := formatUtc_shape (digits := 5) h
    exact ⟨hlen, hpoint, hlast, hfraction⟩
  · rw [t0InRange_iff, ← one_le_civilFromDays_year_iff, ← civilFromDays_year_le_iff]
    exact formatUtc_isSome_iff ..
end

section
/-! PROOFS, part 6. A command run again: what a command keeps is all that a second run reads, but for the ephemeris port. -/

namespace Sys2Proof.Machine

/-- With the ephemeris port put back, a command has left everything that a command reads (20_memory R63). -/
theorem CommandFrame.sameInputs {s t : State} (h : CommandFrame s t) : SameInputs s { t with eph := s.eph } :=
  ⟨h.inp.symm, h.buf.symm, h.cfg.symm, rfl⟩

end Sys2Proof.Machine

open Sys2Proof Sys2Proof.Machine

/-- Settles O46: a command keeps the inputs of a command, and what a command does depends on those alone (O47). -/
theorem commandsLeaveTheBufferAndRepeat : Obligations.CommandsLeaveTheBufferAndRepeat := by
  intro i s t ht
  have hframe := exec_frame ht
  obtain ⟨u, hu, hreads, -⟩ := (commandsDependOnInputsAlone i s { t with eph := s.eph } hframe.sameInputs).1 t ht
  exact ⟨hframe.inp, fun a => by rw [hframe.buf], hframe.buf, hframe.cfg, hframe.host, hframe.rdata, u, hu, hreads⟩
end

section
/-! PROOFS, part 7. The command codes: decoder and encoder, and what a reserved code does. -/

namespace Sys2Proof

/-- Every code outside the map is a reserved code (30_encoding R99). -/
theorem decode_of_le {c : BitVec 8} (hc : 8 ≤ c.toNat) : decode c = .reserved c := by
  unfold decode
  split
  case h_9 => rfl
  all_goals omega

/-- The codes below the reserved ones, each by its row of the map (30_encoding R95). -/
theorem encode_decode_of_lt {c : BitVec 8} (hc : c.toNat < 8) : encode (decode c) = c ∧ (decode c).wellFormed = true := by
  revert c
  decide

/-- Decoding the code of a well-formed command gives the command back. -/
theorem decode_encode {i : Instr} (hi : i.wellFormed = true) : decode (encode i) = i := by
  cases i with
  | reserved code => exact decode_of_le (of_decide_eq_true hi)
  | _ => rfl

/-- Encoding the command of any code gives the code back, and that command is well formed. -/
theorem encode_decode (c : BitVec 8) : encode (decode c) = c ∧ (decode c).wellFormed = true := by
  rcases Nat.lt_or_ge c.toNat 8 with hc | hc
  · exact encode_decode_of_lt hc
  · rw [decode_of_le hc]
    exact ⟨rfl, decide_eq_true hc⟩

/-- An 8-bit word of the opcode table is the code itself, so the table decoder is the decoder. -/
theorem decodeTableWord_eight (c : BitVec 8) : decodeTableWord 8 c.toNat = some (decode c) := by
  have hcode : codeOfTableWord 8 c.toNat = some c := by
    rw [codeOfTableWord, Nat.mod_eq_of_lt c.isLt, if_pos c.isLt, BitVec.ofNat_toNat, BitVec.setWidth_eq]
  rw [decodeTableWord, hcode]
  rfl

end Sys2Proof

open Sys2Proof Sys2Proof.Machine

/-- Settles O1: the eight rows of the map are read off, and every other code is reserved. -/
theorem decodeReadsTheCodeMap : Obligations.DecodeReadsTheCodeMap :=
  ⟨rfl, rfl, rfl, rfl, rfl, rfl, rfl, rfl, fun _ => decode_of_le⟩

/-- Settles O2, by the two round trips between commands and codes. -/
theorem decodeAndEncodeAgree : Obligations.DecodeAndEncodeAgree :=
  ⟨fun _ => decode_encode, fun c => ⟨(encode_decode c).1, (encode_decode c).2, decodeTableWord_eight c⟩⟩

/-- Settles O24: the code decodes to the reserved row, which raises before anything is decoded. -/
theorem reservedCodesAreIllegalCommands : Obligations.ReservedCodesAreIllegalCommands := fun code s hcode =>
  ⟨decode_of_le hcode, execReserved_eq code s⟩
end

section
/-! PROOFS, part 8. The header formats: what the extraction primitive reads where a field, a byte or a whole format stands,
and the commands that decode them. -/

namespace Sys2Proof.Machine

/-! ### Stream bits, bytes and words -/

/-- The stream bits of a byte are its bits, most significant first (00_scope R8). -/
theorem sbit_eq_byteAt (m : Memory) (a : Nat) {j : Nat} (hj : j < 8) :
    sbit m (8 * a + j) = (Memory.byteAt m a).toNat / 2 ^ (7 - j) % 2 := by
  have hbyte : (8 * a + j) / 8 = a := by omega
  have hbit : (8 * a + j) % 8 = j := by omega
  rw [sbit, hbyte, hbit, Nat.shiftRight_eq_div_pow]

/-- A field splits anywhere into its upper and its lower part (20_memory R65, 40_bitfield_extract R118). -/
theorem getbits_add (m : Memory) (p v w : Nat) : getbits m p (v + w) = getbits m p v * 2 ^ w + getbits m (p + v) w := by
  induction w with
  | zero => simp
  | succ w ih =>
    rw [← Nat.add_assoc, getbits_succ, getbits_succ, ih, Nat.add_assoc p v w]
    ring

/-- The `w` stream bits from `p` on are the bits of `v`. -/
def BitsAt {w : Nat} (m : Memory) (p : Nat) (v : BitVec w) : Prop := getbits m p w = v.toNat

theorem BitsAt.ofNat_eq {w : Nat} {m : Memory} {p : Nat} {v : BitVec w} (h : BitsAt m p v) :
    BitVec.ofNat w (getbits m p w) = v := by
  rw [h, BitVec.ofNat_toNat, BitVec.setWidth_eq]

theorem toNat_append_eq {v w : Nat} (x : BitVec v) (y : BitVec w) : (x ++ y).toNat = x.toNat * 2 ^ w + y.toNat := by
  rw [BitVec.toNat_append, ← Nat.shiftLeft_add_eq_or_of_lt y.isLt, Nat.shiftLeft_eq]

/-- Words stand back to back exactly when their concatenation stands there (40_bitfield_extract R120). -/
theorem bitsAt_append_iff {v w : Nat} (m : Memory) (p : Nat) (x : BitVec v) (y : BitVec w) :
    BitsAt m p (x ++ y) ↔ BitsAt m p x ∧ BitsAt m (p + v) y := by
  have hlow := getbits_lt m (p + v) w
  unfold BitsAt
  rw [getbits_add, toNat_append_eq]
  refine ⟨fun h => ?_, fun ⟨hx, hy⟩ => by rw [hx, hy]⟩
  have hlower := congrArg (· % 2 ^ w) h
  simp only [Nat.mul_add_mod_self_right, Nat.mod_eq_of_lt hlow, Nat.mod_eq_of_lt y.isLt] at hlower
  exact ⟨Nat.eq_of_mul_eq_mul_right (Nat.two_pow_pos w) (by omega), hlower⟩

/-- A word splits anywhere into an upper and a lower part. -/
theorem exists_eq_append {v w : Nat} (z : BitVec (v + w)) : ∃ (x : BitVec v) (y : BitVec w), z = x ++ y := by
  refine ⟨z.extractLsb' w v, z.extractLsb' 0 w, ?_⟩
  rw [BitVec.extractLsb'_append_extractLsb'_eq_extractLsb' (Nat.zero_add w).symm, BitVec.extractLsb'_eq_self]

/-- The first `j` stream bits of a byte are its upper `j` bits. -/
theorem getbits_byteAt_upper (m : Memory) (a : Nat) {j : Nat} (hj : j ≤ 8) :
    getbits m (8 * a) j = (Memory.byteAt m a).toNat / 2 ^ (8 - j) := by
  induction j with
  | zero => exact (Nat.div_eq_of_lt (Memory.byteAt m a).isLt).symm
  | succ j ih =>
    have hhalf : (Memory.byteAt m a).toNat / 2 ^ (8 - j) = (Memory.byteAt m a).toNat / 2 ^ (7 - j) / 2 := by
      rw [Nat.div_div_eq_div_mul, ← Nat.pow_succ, show 8 - j = (7 - j).succ by omega]
    rw [getbits_succ, ih (by omega), sbit_eq_byteAt m a hj, hhalf, show 8 - (j + 1) = 7 - j by omega]
    omega

/-- A byte of the buffer stands at eight times its offset. -/
theorem bitsAt_byteAt (m : Memory) (a : Nat) : BitsAt m (8 * a) (Memory.byteAt m a) := by
  simpa [BitsAt] using getbits_byteAt_upper m a (le_refl 8)

theorem bitsAt_of_read {m : Memory} {a : Nat} {b : Byte} (h : Memory.read m a = some b) : BitsAt m (8 * a) b :=
  Memory.byteAt_of_read m a b h ▸ bitsAt_byteAt m a

@[simp] theorem bytesOf_length (n : Nat) (v : BitVec (8 * n)) : (bytesOf n v).length = n := by simp [bytesOf]

/-- The first `k` bytes of a word, most significant first, are its upper `8 * k` bits (20_memory R64). -/
theorem getbits_bytesOf_upper {n : Nat} {m : Memory} {a : Nat} {v : BitVec (8 * n)}
    (h : ∀ i < n, Memory.read m (a + i) = (bytesOf n v)[i]?) {k : Nat} (hk : k ≤ n) :
    getbits m (8 * a) (8 * k) = v.toNat / 2 ^ (8 * (n - k)) := by
  induction k with
  | zero => exact (Nat.div_eq_of_lt v.isLt).symm
  | succ k ih =>
    have hread : Memory.read m (a + k) = some (v.extractLsb' (8 * (n - 1 - k)) 8) := by
      rw [h k hk]
      simp [bytesOf, Nat.lt_of_succ_le hk]
    have hbyte : getbits m (8 * a + 8 * k) 8 = v.toNat / 2 ^ (8 * (n - 1 - k)) % 256 := by
      have := bitsAt_of_read hread
      rwa [BitsAt, BitVec.extractLsb'_toNat, Nat.mul_add, Nat.shiftRight_eq_div_pow] at this
    have hupper : v.toNat / 2 ^ (8 * (n - k)) = v.toNat / 2 ^ (8 * (n - 1 - k)) / 256 := by
      rw [Nat.div_div_eq_div_mul, ← Nat.pow_add 2 _ 8, show 8 * (n - k) = 8 * (n - 1 - k) + 8 by omega]
    rw [Nat.mul_succ, getbits_add, ih (by omega), hbyte, hupper, show n - (k + 1) = n - 1 - k by omega]
    omega

/-- A word stands where its bytes stand. -/
theorem bitsAt_of_bytesOf {n : Nat} {m : Memory} {a : Nat} {v : BitVec (8 * n)}
    (h : ∀ i < n, Memory.read m (a + i) = (bytesOf n v)[i]?) : BitsAt m (8 * a) v := by
  simpa [BitsAt] using getbits_bytesOf_upper h (le_refl n)

/-! ### The formats -/

/-- The fields of a Packet ID that stands at `p` (30_encoding R81). -/
theorem pidFields_of_bitsAt {m : Memory} {p : Nat} {version : BitVec 3} {ptype shf : BitVec 1} {apid : BitVec 11}
    (h : BitsAt m p (encodePid16 version ptype shf apid)) :
    pidFields m p = ⟨version, ptype, shf, apid, apid.extractLsb' 4 7, apid.extractLsb' 0 4⟩ := by
  simp only [encodePid16, bitsAt_append_iff] at h
  obtain ⟨⟨⟨hversion, hptype⟩, hshf⟩, hapid⟩ := h
  simp [pidFields, fieldAt, fields, pidWidths, Nat.add_assoc, hversion.ofNat_eq, hptype.ofNat_eq, hshf.ofNat_eq, hapid.ofNat_eq]

/-- The fields of a Sequence Control word that stands at `p` (30_encoding R82). -/
theorem pscFields_of_bitsAt {m : Memory} {p : Nat} {segFlag : BitVec 2} {seqCount : BitVec 14}
    (h : BitsAt m p (encodePsc16 segFlag seqCount)) : pscFields m p = ⟨segFlag, seqCount⟩ := by
  obtain ⟨hflag, hcount⟩ := (bitsAt_append_iff ..).mp h
  exact congrArg₂ PscGroup.mk hflag.ofNat_eq hcount.ofNat_eq

/-- The length field that stands at `p`. -/
theorem lenFields_of_bitsAt {m : Memory} {p : Nat} {rawLen : BitVec 16} (h : BitsAt m p rawLen) :
    (lenFields m p).rawLen = rawLen := h.ofNat_eq

/-- The named fields of a Data Field Header that stands at `p`; the spares are read over (30_encoding R84, R97). -/
theorem dfhFields_of_bitsAt {m : Memory} {p : Nat} {spare0 : BitVec 1} {pusVer : BitVec 3} {spare1 : BitVec 4}
    {svcType svcSubtype destId : BitVec 8} {sync : BitVec 1} {coarse : BitVec 31} {fine : BitVec 16}
    (h : BitsAt m p (encodeDfh80 spare0 pusVer spare1 svcType svcSubtype destId sync coarse fine)) :
    dfhFields m p = ⟨pusVer, svcType, svcSubtype, destId, sync, 1 - sync, coarse, fine⟩ := by
  simp only [encodeDfh80, bitsAt_append_iff] at h
  obtain ⟨⟨⟨⟨⟨⟨⟨⟨-, hver⟩, -⟩, htype⟩, hsubtype⟩, hdest⟩, hsync⟩, hcoarse⟩, hfine⟩ := h
  simp [dfhFields, fieldAt, fields, dfhWidths, Nat.add_assoc, hver.ofNat_eq, htype.ofNat_eq, hsubtype.ofNat_eq, hdest.ofNat_eq,
    hsync.ofNat_eq, hcoarse.ofNat_eq, hfine.ofNat_eq]

/-- The Packet ID of the word `z`: `z[15:13]`, `z[12]`, `z[11]` and `z[10:0]` (30_encoding R81). -/
theorem pidFields_toNat_of_bitsAt {m : Memory} {p : Nat} {z : BitVec 16} (h : BitsAt m p z) :
    (pidFields m p).version.toNat = z.toNat / 8192 ∧ (pidFields m p).ptype.toNat = z.toNat / 4096 % 2 ∧
      (pidFields m p).shf.toNat = z.toNat / 2048 % 2 ∧ (pidFields m p).apid.toNat = z.toNat % 2048 := by
  obtain ⟨x, apid, rfl⟩ := exists_eq_append (v := 3 + 1 + 1) (w := 11) z
  obtain ⟨y, shf, rfl⟩ := exists_eq_append (v := 3 + 1) (w := 1) x
  obtain ⟨version, ptype, rfl⟩ := exists_eq_append (v := 3) (w := 1) y
  rw [pidFields_of_bitsAt (show BitsAt m p (encodePid16 version ptype shf apid) from h)]
  simp only [toNat_append_eq]
  omega

/-- PROCESS_ID and PKT_CAT, each from the APID (41_primary_header R133). -/
theorem pidFields_split_toNat (m : Memory) (p : Nat) :
    (pidFields m p).processId.toNat = (pidFields m p).apid.toNat / 16 ∧
      (pidFields m p).pktCat.toNat = (pidFields m p).apid.toNat % 16 := by
  have hsplit := pidFields_split m p
  have hcat := (pidFields m p).pktCat.isLt
  omega

/-- The Sequence Control of the word `z`: `z[15:14]` and `z[13:0]` (30_encoding R82). -/
theorem pscFields_toNat_of_bitsAt {m : Memory} {p : Nat} {z : BitVec 16} (h : BitsAt m p z) :
    (pscFields m p).segFlag.toNat = z.toNat / 16384 ∧ (pscFields m p).seqCount.toNat = z.toNat % 16384 := by
  obtain ⟨segFlag, seqCount, rfl⟩ := exists_eq_append (v := 2) (w := 14) z
  rw [pscFields_of_bitsAt h]
  simp only [toNat_append_eq]
  omega

/-- The Data Field Header of four bytes, a word of 32 bits and a word of 16: of these the first byte and the first word hold
more than one field (30_encoding R84). -/
theorem dfhFields_toNat_of_bitsAt {m : Memory} {p : Nat} {b0 b1 b2 b3 : Byte} {time : BitVec 32} {fine : BitVec 16}
    (h : BitsAt m p (b0 ++ b1 ++ b2 ++ b3 ++ time ++ fine)) :
    (dfhFields m p).pusVer.toNat = b0.toNat / 16 % 8 ∧ (dfhFields m p).svcType = b1 ∧ (dfhFields m p).svcSubtype = b2 ∧
      (dfhFields m p).destId = b3 ∧ (dfhFields m p).syncBit.toNat = time.toNat / 2 ^ 31 ∧
      (dfhFields m p).timeSync.toNat = 1 - time.toNat / 2 ^ 31 ∧
      (dfhFields m p).coarse.toNat = time.toNat % 2 ^ 31 ∧ (dfhFields m p).fine = fine := by
  obtain ⟨x, spare1, rfl⟩ := exists_eq_append (v := 1 + 3) (w := 4) b0
  obtain ⟨spare0, pusVer, rfl⟩ := exists_eq_append (v := 1) (w := 3) x
  obtain ⟨sync, coarse, rfl⟩ := exists_eq_append (v := 1) (w := 31) time
  have h' : BitsAt m p (encodeDfh80 spare0 pusVer spare1 b1 b2 b3 sync coarse fine) := by
    simp only [encodeDfh80, bitsAt_append_iff, and_assoc] at h ⊢
    exact h
  have hflip : ∀ b : BitVec 1, (1 - b).toNat = 1 - b.toNat := by decide
  rw [dfhFields_of_bitsAt h']
  simp only [toNat_append_eq, hflip]
  refine ⟨by omega, trivial, trivial, trivial, by omega, by omega, by omega, trivial⟩

/-- The synchronization bit is the top bit of byte 4 (43_data_field_header R187). -/
theorem dfhFields_syncBit_eq_zero_iff (m : Memory) (a : Nat) :
    (dfhFields m (8 * a)).syncBit = 0 ↔ (Memory.byteAt m (a + 4)).getLsbD 7 = false := by
  have hsync : (dfhFields m (8 * a)).syncBit = BitVec.ofNat 1 (getbits m (8 * (a + 4)) 1) := rfl
  rw [hsync, getbits_byteAt_upper m (a + 4) (by decide), BitVec.getLsbD, Nat.testBit_eq_decide_div_mod_eq, ← BitVec.toNat_inj,
    BitVec.toNat_ofNat]
  simp

/-! ### The bytes a command needs -/

theorem bufHolds_of_bufStarts {s : State} {bs : List Byte} (h : s.bufStarts bs) {n : Nat} (hn : n ≤ bs.length) :
    s.bufHolds n := by
  intro a ha
  rw [h a (ha.trans_le hn), List.getElem?_eq_getElem (ha.trans_le hn)]
  rfl

theorem bitsAt_of_bufStarts {s : State} {bs : List Byte} (h : s.bufStarts bs) {i : Nat} {b : Byte} (hb : bs[i]? = some b) :
    BitsAt s.buf (8 * i) b :=
  bitsAt_of_read ((h i (List.getElem?_eq_some_iff.mp hb).1).trans hb)

/-- Two bytes back to back are one word. -/
theorem bitsAt_word_of_bufStarts {s : State} {bs : List Byte} (h : s.bufStarts bs) {i : Nat} {b c : Byte}
    (hb : bs[i]? = some b) (hc : bs[i + 1]? = some c) : BitsAt s.buf (8 * i) (b ++ c) := by
  rw [bitsAt_append_iff, ← Nat.mul_succ]
  exact ⟨bitsAt_of_bufStarts h hb, bitsAt_of_bufStarts h hc⟩

/-- A byte that is needed is not missing. -/
theorem read_ne_none_of_bufHolds {s : State} {n a : Nat} (h : s.bufHolds n) (ha : a < n) : Memory.read s.buf a ≠ none :=
  Option.isSome_iff_ne_none.mp (h a ha)

/-! ### The commands, where nothing stops them -/

theorem execDpid_of_holds {s : State} (hlen : 2 ≤ s.inp.bufLen.toNat) (hbuf : s.bufHolds 2) :
    execDpid s = .next { s with stat := .success 0 0x001, pid := pidFields s.buf 0 } := by
  rcases execDpid_cases s with ⟨hshort, -⟩ | ⟨-, -, e⟩ | ⟨-, a, ha, hnone, -⟩
  · omega
  · exact e
  · exact absurd hnone (read_ne_none_of_bufHolds hbuf ha)

theorem execDpsc_of_holds {s : State} (hlen : 2 ≤ s.inp.bufLen.toNat) (hbuf : s.bufHolds 2) :
    execDpsc s = .next { s with stat := .success 0 0x002, psc := pscFields s.buf 0 } := by
  rcases execDpsc_cases s with ⟨hshort, -⟩ | ⟨-, -, e⟩ | ⟨-, a, ha, hnone, -⟩
  · omega
  · exact e
  · exact absurd hnone (read_ne_none_of_bufHolds hbuf ha)

theorem execDsph_of_holds {s : State} (hlen : 6 ≤ s.inp.bufLen.toNat) (hbuf : s.bufHolds 6) :
    execDsph s = .next { s with
      stat := .success 0 0x007, pid := pidFields s.buf 0, psc := pscFields s.buf 16, len := lenFields s.buf 32 } := by
  rcases execDsph_cases s with ⟨hshort, -⟩ | ⟨-, -, e⟩ | ⟨-, a, ha, hnone, -⟩
  · omega
  · exact e
  · exact absurd hnone (read_ne_none_of_bufHolds hbuf ha)

/-- With its inputs held DDFH decodes the fields, and changes the header, the time, the port and the status alone. -/
theorem execDdfh_of_ready {s : State} (hlen : 10 ≤ s.inp.bufLen.toNat) (hready : CommandReady .ddfh s) :
    ∃ t, execDdfh s = .next t ∧ t.dfh = dfhFields s.buf 0 ∧ t.isValid .dfh = true ∧
      t = { s with stat := t.stat, dfh := t.dfh, utc := t.utc, eph := t.eph } := by
  obtain ⟨hbuf, htime⟩ := hready hlen
  rcases execDdfh_cases s with ⟨hshort, -⟩ | ⟨-, -, u, eph, -, e⟩ | ⟨-, -, -, -, -, e⟩ | ⟨-, -, -, -, -, -, -, e⟩ |
    ⟨-, -, hsync, hmissing, -⟩ | ⟨-, a, ha, hnone, -⟩
  · omega
  · exact ⟨_, e, rfl, (show (0x018 : BitVec 9).getLsbD 3 = true by decide), rfl⟩
  · exact ⟨_, e, rfl, (show (0x008 : BitVec 9).getLsbD 3 = true by decide), rfl⟩
  · exact ⟨_, e, rfl, (show (0x008 : BitVec 9).getLsbD 3 = true by decide), rfl⟩
  · exact absurd (htime ((dfhFields_syncBit_eq_zero_iff s.buf 0).mp hsync)) hmissing
  · exact absurd hnone (read_ne_none_of_bufHolds hbuf ha)

/-- With `T0_VALID = 1` and the registers held DPKT decodes the whole packet; the length check decides its status. -/
theorem execDpkt_of_t0 {s : State} (hlen : 16 ≤ s.inp.bufLen.toNat) (hbuf : s.bufHolds 16)
    (hmission : s.inp.missionId.held = true) (hvalid : s.inp.t0Valid = 1) (ht0 : s.inp.t0Us.held = true) :
    ∃ u eph, execDpkt s = .next { s with
      stat := s.packetStatus
      pid := pidFields s.buf 0, psc := pscFields s.buf 16, len := lenFields s.buf 32, dfh := dfhFields s.buf 48
      pay := ⟨16, s.inp.bufLen - 16⟩, pktMissionId := s.inp.missionId.value, utc := u, eph := eph } := by
  rcases execDpkt_cases s with ⟨hshort, -⟩ | ⟨-, -, -, u, eph, -, e⟩ | ⟨-, -, hno, -⟩ | ⟨-, -, hheld | ⟨-, hheld, -⟩, -⟩ |
    ⟨-, a, ha, hnone, -⟩
  · omega
  · exact ⟨u, eph, e⟩
  · exact absurd (hvalid.symm.trans hno) (by decide)
  · exact absurd (hmission.symm.trans hheld) (by decide)
  · exact absurd (ht0.symm.trans hheld) (by decide)
  · exact absurd hnone (read_ne_none_of_bufHolds hbuf ha)

theorem encodePkt_length (sph : BitVec 48) (dfh : BitVec 80) (payload : List Byte) :
    (encodePkt sph dfh payload).length = 16 + payload.length := by
  rw [encodePkt, List.length_append, List.length_append, bytesOf_length, bytesOf_length]

/-- Where the headers of an encoded packet stand. -/
theorem bitsAt_of_encodePkt {s : State} {sph : BitVec 48} {dfh : BitVec 80} {payload : List Byte}
    (h : s.bufStarts (encodePkt sph dfh payload)) : BitsAt s.buf 0 sph ∧ BitsAt s.buf 48 dfh := by
  have hbytes (i : Nat) (hi : i < 16) : Memory.read s.buf i = (bytesOf 6 sph ++ bytesOf 10 dfh)[i]? := by
    have hlen : (bytesOf 6 sph ++ bytesOf 10 dfh).length = 16 := by simp
    rw [h i (by rw [encodePkt_length]; omega), encodePkt, List.getElem?_append_left (by omega)]
  refine ⟨bitsAt_of_bytesOf (n := 6) (a := 0) fun i hi => ?_, bitsAt_of_bytesOf (n := 10) (a := 6) fun i hi => ?_⟩
  · rw [Nat.zero_add, hbytes i (by omega), List.getElem?_append_left (by simpa using hi)]
  · rw [hbytes (6 + i) (by omega), List.getElem?_append_right (by simp), bytesOf_length, Nat.add_sub_cancel_left]

end Sys2Proof.Machine

open Sys2Proof Sys2Proof.Machine

/-- Settles O28, by the Packet ID of the word of the first two bytes. -/
theorem dpidDecodesThePacketId : Obligations.DpidDecodesThePacketId := by
  intro s b0 b1 hlen hbuf
  have hword : BitsAt s.buf (8 * 0) (b0 ++ b1) := bitsAt_word_of_bufStarts hbuf rfl rfl
  obtain ⟨hversion, hptype, hshf, hapid⟩ := pidFields_toNat_of_bitsAt hword
  obtain ⟨hprocess, hcat⟩ := pidFields_split_toNat s.buf 0
  rw [toNat_append_eq] at hversion hptype hshf hapid
  exact ⟨_, execDpid_of_holds hlen (bufHolds_of_bufStarts hbuf (by simp)), hversion, hptype, hshf, hapid,
    hprocess, hcat, rfl, rfl⟩

/-- Settles O29, by the Sequence Control of the word of the first two bytes. -/
theorem dpscDecodesTheSequenceControl : Obligations.DpscDecodesTheSequenceControl := by
  intro s b0 b1 hlen hbuf
  have hword : BitsAt s.buf (8 * 0) (b0 ++ b1) := bitsAt_word_of_bufStarts hbuf rfl rfl
  obtain ⟨hflag, hcount⟩ := pscFields_toNat_of_bitsAt hword
  rw [toNat_append_eq] at hflag hcount
  exact ⟨_, execDpsc_of_holds hlen (bufHolds_of_bufStarts hbuf (by simp)), hflag, hcount, rfl, rfl⟩

/-- Settles O30: each of the three words of the header is decoded where it stands. -/
theorem dsphDecodesTheHeader : Obligations.DsphDecodesTheHeader := by
  intro s b0 b1 b2 b3 b4 b5 hlen hbuf
  have hpid : BitsAt s.buf (8 * 0) (b0 ++ b1) := bitsAt_word_of_bufStarts hbuf rfl rfl
  have hpsc : BitsAt s.buf (8 * 2) (b2 ++ b3) := bitsAt_word_of_bufStarts hbuf rfl rfl
  have hlength : BitsAt s.buf (8 * 4) (b4 ++ b5) := bitsAt_word_of_bufStarts hbuf rfl rfl
  obtain ⟨hversion, hptype, hshf, hapid⟩ := pidFields_toNat_of_bitsAt hpid
  obtain ⟨hflag, hcount⟩ := pscFields_toNat_of_bitsAt hpsc
  have hraw := congrArg BitVec.toNat (lenFields_of_bitsAt hlength)
  rw [toNat_append_eq] at hversion hptype hshf hapid hflag hcount hraw
  have hpkt := (lenFields_pktLen_toNat s.buf 32).trans (congrArg (· + 1) hraw)
  exact ⟨_, execDsph_of_holds hlen (bufHolds_of_bufStarts hbuf (by simp)), hversion, hptype, hshf, hapid,
    pidFields_split .., hflag, hcount, hraw, hpkt, rfl, rfl⟩

/-- Settles O35: the fields by the layout of the ten bytes, the other groups by what DDFH writes (O52). -/
theorem ddfhDecodesTheNamedFields : Obligations.DdfhDecodesTheNamedFields := by
  intro s b0 b1 b2 b3 b4 b5 b6 b7 b8 b9 hlen hbuf hready
  have hbits : BitsAt s.buf 0 (b0 ++ b1 ++ b2 ++ b3 ++ (b4 ++ b5 ++ b6 ++ b7) ++ (b8 ++ b9)) := by
    have hbyte {b : Byte} (i : Nat) (hb : [b0, b1, b2, b3, b4, b5, b6, b7, b8, b9][i]? = some b) : BitsAt s.buf (8 * i) b :=
      bitsAt_of_bufStarts hbuf hb
    simp only [bitsAt_append_iff]
    exact ⟨⟨⟨⟨⟨hbyte 0 rfl, hbyte 1 rfl⟩, hbyte 2 rfl⟩, hbyte 3 rfl⟩, ⟨⟨hbyte 4 rfl, hbyte 5 rfl⟩, hbyte 6 rfl⟩, hbyte 7 rfl⟩,
      hbyte 8 rfl, hbyte 9 rfl⟩
  obtain ⟨hver, htype, hsubtype, hdest, hsync, htsync, hcoarse, hfine⟩ := dfhFields_toNat_of_bitsAt hbits
  obtain ⟨t, ht, hdfh, hvalid, hframe⟩ := execDdfh_of_ready hlen hready
  simp only [toNat_append_eq] at hsync htsync hcoarse
  rw [← hdfh] at hver htype hsubtype hdest hsync htsync hcoarse hfine
  refine ⟨t, ht, hver, htype, hsubtype, hdest, by omega, by omega, by omega, ?_, hvalid, fun g hgdfh hgutc => ?_, hframe⟩
  · rw [hfine]
    exact toNat_append_eq b8 b9
  · exact ((execDdfh_end ht).kept g (by simp [hgdfh, hgutc])).2

/-- Settles O45: each field stands in the packet where the decoder reads it. -/
theorem dpktRecoversEveryEncodedPacket : Obligations.DpktRecoversEveryEncodedPacket := by
  intro version ptype shf apid segFlag seqCount rawLen spare0 pusVer spare1 svcType svcSubtype destId sync coarse fine payload s
    hbuf hlen hknown hmission hvalid ht0 hcheck
  obtain ⟨hsph, hdfh⟩ := bitsAt_of_encodePkt hbuf
  simp only [encodeSph48, bitsAt_append_iff] at hsph
  obtain ⟨⟨hpid, hpsc⟩, hlength⟩ := hsph
  replace hpid := pidFields_of_bitsAt hpid
  have hapid : (pidFields s.buf 0).apid = apid := congrArg PidGroup.apid hpid
  have hsplit := hapid ▸ pidFields_split s.buf 0
  have hraw : (lenFields s.buf 32).rawLen = rawLen := lenFields_of_bitsAt hlength
  have hpkt := hraw ▸ lenFields_pktLen_toNat s.buf 32
  have hpayload : (s.inp.bufLen - 16).toNat = payload.length := by
    have hle : (16 : BitVec 32) ≤ s.inp.bufLen := BitVec.le_def.mpr (hlen ▸ Nat.le_add_right 16 _)
    rw [BitVec.toNat_sub_of_le hle, hlen]
    exact Nat.add_sub_cancel_left 16 _
  have hstatus : s.packetStatus = .success 0 0x0FF := by
    rw [State.packetStatus, if_neg fun ⟨hon, _⟩ => absurd (hcheck.symm.trans hon) (by decide), hknown]
    rfl
  have hholds : s.bufHolds 16 := bufHolds_of_bufStarts hbuf (encodePkt_length .. ▸ Nat.le_add_right 16 _)
  obtain ⟨u, eph, e⟩ := execDpkt_of_t0 (by omega) hholds hmission hvalid ht0
  exact ⟨_, e, congrArg PidGroup.version hpid, congrArg PidGroup.ptype hpid, congrArg PidGroup.shf hpid, hapid, hsplit,
    pscFields_of_bitsAt hpsc, hraw, hpkt, dfhFields_of_bitsAt hdfh, rfl, hpayload, hstatus⟩
end

section
/-! PROOFS, part 9. Bit-field extraction: the bits of a field, the fields of a width list, and the two ends of BFX. -/

namespace Sys2Proof.Machine

/-! ### The bits of a field -/

/-- A field depends on its own stream bits only. -/
theorem getbits_congr {m m' : Memory} {p w : Nat} (h : ∀ j < w, sbit m (p + j) = sbit m' (p + j)) :
    getbits m p w = getbits m' p w := by
  induction w with
  | zero => rfl
  | succ w ih => rw [getbits_succ, getbits_succ, ih fun j hj => h j (by omega), h w (Nat.lt_succ_self w)]

/-- The high part of a split field. -/
theorem getbits_add_div (m : Memory) (p a b : Nat) : getbits m p (a + b) / 2 ^ b = getbits m p a := by
  rw [getbits_add, Nat.mul_comm, Nat.mul_add_div (Nat.two_pow_pos b), Nat.div_eq_of_lt (getbits_lt m (p + a) b), Nat.add_zero]

/-- The low part of a split field. -/
theorem getbits_add_mod (m : Memory) (p a b : Nat) : getbits m p (a + b) % 2 ^ b = getbits m (p + a) b := by
  rw [getbits_add, Nat.mul_add_mod_self_right, Nat.mod_eq_of_lt (getbits_lt m (p + a) b)]

/-- The last bit of a field is the last stream bit read. -/
theorem getbits_succ_mod_two (m : Memory) (p w : Nat) : getbits m p (w + 1) % 2 = sbit m (p + w) := by
  have := sbit_lt_two m (p + w)
  rw [getbits_succ]
  omega

/-- A stream bit is a bit of its byte (00_scope R8). -/
theorem decide_sbit_eq_one (m : Memory) (k : Nat) :
    decide (sbit m k = 1) = (Memory.byteAt m (k / 8)).getLsbD (7 - k % 8) := by
  rw [sbit, Nat.shiftRight_eq_div_pow, ← Nat.testBit_eq_decide_div_mod_eq, BitVec.testBit_toNat]

/-- The bit of a field with `r` bits behind it, the field split after that bit. -/
theorem getbits_testBit (m : Memory) (p j r : Nat) :
    (getbits m p (j + 1 + r)).testBit r = (Memory.byteAt m ((p + j) / 8)).getLsbD (7 - (p + j) % 8) := by
  rw [Nat.testBit_eq_decide_div_mod_eq, getbits_add_div, getbits_succ_mod_two, decide_sbit_eq_one]

/-! ### The fields of a width list -/

/-- The fields of a list that goes on start where the cursor stands (40_bitfield_extract R120). -/
theorem fields_append (m : Memory) (p : Nat) (ws vs : List Nat) :
    fields m p (ws ++ vs) = fields m p ws ++ fields m (p + ws.sum) vs := by
  induction ws generalizing p with
  | nil => rfl
  | cons w ws ih => rw [List.cons_append, fields, ih, fields, List.cons_append, List.sum_cons, Nat.add_assoc]

/-- A field starts after the widths before it (40_bitfield_extract R120). -/
theorem fields_getElem? (m : Memory) (p : Nat) {ws : List Nat} {i : Nat} (hi : i < ws.length) :
    (fields m p ws)[i]? = some (getbits m (p + (ws.take i).sum) (ws.getD i 0)) := by
  induction ws generalizing p i with
  | nil => exact absurd hi (Nat.not_lt_zero i)
  | cons w ws ih =>
    cases i with
    | zero => rfl
    | succ i =>
      rw [fields, List.getElem?_cons_succ, ih (p + w) (Nat.lt_of_succ_lt_succ hi), List.take_succ_cons, List.sum_cons,
        List.getD_cons_succ, Nat.add_assoc]

/-! ### BFX with a legal width list -/

theorem State.widthEntries_length {s : State} (hcnt : s.inp.wlCnt.toNat ≤ 16) :
    s.widthEntries.length = s.inp.wlCnt.toNat := by
  rw [State.widthEntries, List.length_take, Vector.length_toList, Nat.min_eq_left hcnt]

theorem State.widthEntries_getElem? {s : State} {i : Nat} (hcnt : s.inp.wlCnt.toNat ≤ 16) (hi : i < s.inp.wlCnt.toNat) :
    s.widthEntries[i]? = some (s.wlEntry i) := by
  have hfile : i < s.inp.wl.toList.length := by
    rw [Vector.length_toList]
    omega
  rw [State.widthEntries, List.getElem?_take_of_lt hi, State.wlEntry, List.getD_eq_getElem _ _ hfile,
    List.getElem?_eq_getElem hfile]

/-- The field of entry `i` stands after the widths of the entries before it. -/
theorem State.fields_widthEntries_getD {s : State} {i : Nat} (hcnt : s.inp.wlCnt.toNat ≤ 16)
    (hi : i < s.inp.wlCnt.toNat) :
    (fields s.buf 0 (s.widthEntries.map fun r => r.value.toNat)).getD i 0 =
      getbits s.buf ((s.widthEntries.take i).map fun r => r.value.toNat).sum (s.wlEntry i).value.toNat := by
  have hlen : i < (s.widthEntries.map fun r => r.value.toNat).length := by
    rwa [List.length_map, State.widthEntries_length hcnt]
  have hwidth : (s.widthEntries.map fun r => r.value.toNat).getD i 0 = (s.wlEntry i).value.toNat := by
    rw [List.getD_eq_getElem?_getD, List.getElem?_map, State.widthEntries_getElem? hcnt hi]
    rfl
  rw [List.getD_eq_getElem?_getD, fields_getElem? _ _ hlen, hwidth, ← List.map_take, Nat.zero_add, Option.getD_some]

/-- An entry past the results written is as before, whether or not the file has it. -/
theorem writeResults_toList_getD_of_length_le (file : Vector Nat 16) {vs : List Nat} {i : Nat} (hi : vs.length ≤ i) :
    (writeResults file 0 vs).toList.getD i 0 = file.toList.getD i 0 := by
  rcases Nat.lt_or_ge i 16 with hfile | hfile
  · rw [writeResults_toList_getD _ _ _ _ hfile, if_neg (by omega)]
  · rw [List.getD_eq_default _ _ (by simpa using hfile), List.getD_eq_default _ _ (by simpa using hfile)]

theorem execBfx_of_legal {s : State} (hlegal : s.widthsLegal) (hbits : s.widthSum ≤ s.availBits)
    (hbuf : s.bufHolds ((s.widthSum + 7) / 8)) :
    execBfx s = .next { s with
      stat := .success 0 0x100
      res := ⟨s.inp.wlCnt, writeResults s.res.bfx 0 (fields s.buf 0 (s.widthEntries.map fun r => r.value.toNat))⟩ } := by
  have hscan := scanWidths_of_legal s.cfg.fieldMax 0 s.widthEntries hlegal.2
  rcases execBfx_cases s with ⟨hcnt, -⟩ | ⟨-, i, hno, -⟩ | ⟨-, i, hbad, -⟩ | ⟨-, hshort, -⟩ | ⟨-, -, -, e⟩ |
    ⟨-, -, a, ha, hnone, -⟩
  · exact absurd hlegal.1 (Nat.not_le_of_lt hcnt)
  · cases hscan.symm.trans hno
  · cases hscan.symm.trans hbad
  · exact absurd hbits (Nat.not_le_of_lt hshort)
  · exact e
  · exact absurd hnone (read_ne_none_of_bufHolds hbuf ha)

/-! ### BFX with a bad width list -/

/-- The scan stops at the first entry that is no legal width, whatever stands after it. -/
theorem scanWidths_of_bad {fieldMax k i : Nat} {rs : List (InputReg 8)} {r : InputReg 8}
    (hbefore : ∀ q ∈ rs.take i, q.held = true ∧ q.value ≠ 0 ∧ q.value.toNat ≤ fieldMax) (hr : rs[i]? = some r)
    (hheld : r.held = true) (hbad : r.value = 0 ∨ fieldMax < r.value.toNat) :
    scanWidths fieldMax k rs = .bad (k + i) := by
  induction rs generalizing k i with
  | nil => cases hr
  | cons q rs ih =>
    cases i with
    | zero =>
      cases hr
      rw [scanWidths, if_neg (by simp [hheld]), if_pos hbad, Nat.add_zero]
    | succ i =>
      rw [List.take_succ_cons, List.forall_mem_cons] at hbefore
      obtain ⟨⟨hq, hzero, hmax⟩, hrest⟩ := hbefore
      rw [scanWidths, if_neg (by simp [hq]), if_neg (not_or.mpr ⟨hzero, Nat.not_lt.mpr hmax⟩), ih hrest hr,
        Nat.succ_add_eq_add_succ]

theorem execBfx_of_count_gt {s : State} (hcnt : s.cfg.wlMax < s.inp.wlCnt.toNat) :
    execBfx s = .next { s with stat := .failure 0 5 1 s.inp.wlCnt.toNat 0 0 0 } := by
  have hno := Nat.not_le_of_lt hcnt
  rcases execBfx_cases s with ⟨-, e⟩ | ⟨hle, -⟩ | ⟨hle, -⟩ | ⟨hlegal, -⟩ | ⟨hlegal, -⟩ | ⟨hlegal, -⟩
  · exact e
  · exact absurd hle hno
  · exact absurd hle hno
  · exact absurd hlegal.1 hno
  · exact absurd hlegal.1 hno
  · exact absurd hlegal.1 hno

theorem execBfx_of_scan_bad {s : State} {i : Nat} (hcnt : s.inp.wlCnt.toNat ≤ s.cfg.wlMax)
    (hscan : scanWidths s.cfg.fieldMax 0 s.widthEntries = .bad i) :
    execBfx s = .next { s with stat := .failure 0 5 1 i 0 0 0 } := by
  have hillegal : ¬ s.widthsLegal := fun hlegal => by
    cases hscan.symm.trans (scanWidths_of_legal _ _ _ hlegal.2)
  rcases execBfx_cases s with ⟨hgt, -⟩ | ⟨-, j, hno, -⟩ | ⟨-, j, hbad, e⟩ | ⟨hlegal, -⟩ | ⟨hlegal, -⟩ | ⟨hlegal, -⟩
  · exact absurd hcnt (Nat.not_le_of_lt hgt)
  · cases hscan.symm.trans hno
  · cases hscan.symm.trans hbad
    exact e
  · exact absurd hlegal hillegal
  · exact absurd hlegal hillegal
  · exact absurd hlegal hillegal

end Sys2Proof.Machine

open Sys2Proof Sys2Proof.Machine

/-- Settles O20: the field is split behind the bit asked for. -/
theorem getbitsPlacesEachStreamBit : Obligations.GetbitsPlacesEachStreamBit := by
  intro m p w j hj
  obtain ⟨r, rfl⟩ := Nat.exists_eq_add_of_le (Nat.succ_le_of_lt hj)
  rw [show j.succ + r - 1 - j = r by omega]
  exact ⟨getbits_testBit m p j r, getbits_lt m p _⟩

/-- Settles O21, by the bits a field reads and its split into two. -/
theorem fieldsAreIndependentAndSplit : Obligations.FieldsAreIndependentAndSplit :=
  ⟨fun _ _ _ _ => getbits_congr, fun m p a b => ⟨(getbits_add_div m p a b).symm, (getbits_add_mod m p a b).symm⟩⟩

/-- Settles O22, by the cursor of the field list. -/
theorem fieldsLieBackToBack : Obligations.FieldsLieBackToBack := fun m p ws vs =>
  ⟨fun _ => fields_getElem? m p, fields_length m p ws, fields_append m p ws vs⟩

/-- Settles O25: BFX writes the fields of the list to the entries below the count, and no entry from the count on. -/
theorem bfxExtractsTheWidthList : Obligations.BfxExtractsTheWidthList := by
  intro s ⟨_, _, _, hmax, _⟩ hlegal hbits hbuf
  have hcnt : s.inp.wlCnt.toNat ≤ 16 := hlegal.1.trans hmax
  have hlen : (fields s.buf 0 (s.widthEntries.map fun r => r.value.toNat)).length = s.inp.wlCnt.toNat := by
    rw [fields_length, List.length_map, State.widthEntries_length hcnt]
  refine ⟨_, execBfx_of_legal hlegal hbits hbuf, rfl, fun i hi => ?_, fun i hi => ?_, rfl, rfl⟩
  · rw [writeResults_toList_getD _ _ _ _ (by omega), if_pos (by omega)]
    exact State.fields_widthEntries_getD hcnt hi
  · exact writeResults_toList_getD_of_length_le s.res.bfx (hlen.trans_le hi)

/-- Settles O26: a bad count raises before the scan, and the scan stops at the first bad entry. -/
theorem bfxRejectsABadWidthList : Obligations.BfxRejectsABadWidthList :=
  ⟨fun _ => execBfx_of_count_gt, fun _ i _ hcnt hbefore hr hheld hbad =>
    execBfx_of_scan_bad hcnt (Nat.zero_add i ▸ scanWidths_of_bad hbefore hr hheld hbad)⟩
end

section
/-! PROOFS, part 10. The time resolver: the rounding of a fraction, the linear sum, the calendar of the spec, and how TRES, DDFH
and DPKT end by the strategy their inputs choose. -/

namespace Sys2Proof.Machine

/-! ### Elapsed microseconds -/

/-- Half-even rounding gives a nearest integer: it is at most half a divisor away (42_time_resolver R156). -/
theorem rdiv_halfEven_nearest (n : Nat) {d : Nat} (hd : 0 < d) :
    2 * n ≤ 2 * (d * rdiv .halfEven n d) + d ∧ 2 * (d * rdiv .halfEven n d) ≤ 2 * n + d := by
  have hdiv := Nat.div_add_mod n d
  have hmod := Nat.mod_lt n hd
  simp only [rdiv]
  split
  · rw [Nat.mul_succ]
    omega
  · omega

/-- On a tie half-even rounding gives the even one of the two nearest integers. -/
theorem rdiv_halfEven_even_of_tie {n d : Nat} (htie : 2 * (n % d) = d) : rdiv .halfEven n d % 2 = 0 := by
  simp only [rdiv]
  split <;> omega

/-- Truncation gives the integer below. -/
theorem rdiv_truncate_floor (n : Nat) {d : Nat} (hd : 0 < d) :
    d * rdiv .truncate n d ≤ n ∧ n < d * (rdiv .truncate n d + 1) :=
  ⟨Nat.mul_div_le n d, Nat.lt_mul_div_succ n hd⟩

/-- Either rounding is at most half a divisor above the number. -/
theorem mul_rdiv_le (r : UsecRounding) (n : Nat) {d : Nat} (hd : 0 < d) : 2 * (d * rdiv r n d) ≤ 2 * n + d := by
  cases r with
  | halfEven => exact (rdiv_halfEven_nearest n hd).2
  | truncate =>
    have := (rdiv_truncate_floor n hd).1
    omega

/-- The ties of a fraction: 15625 is odd. -/
theorem fraction_tie_iff (f : Nat) : 2 * (f * 15625 % 1024) = 1024 ↔ f % 1024 = 512 := by omega

/-- A fraction never carries into the seconds (42_time_resolver R156). -/
theorem rdiv_fraction_le (r : UsecRounding) (f : BitVec 16) : rdiv r (f.toNat * 15625) 1024 ≤ 999985 := by
  have hround := mul_rdiv_le r (f.toNat * 15625) (d := 1024) (by decide)
  have hf := f.isLt
  omega

theorem elapsedUs_le (r : UsecRounding) (c : BitVec 31) (f : BitVec 16) : elapsedUs r c f ≤ 2147483647999985 := by
  have hfraction := rdiv_fraction_le r f
  have hc := c.isLt
  rw [elapsedUs]
  omega

/-- With `T0_US` in its legal range the sum fits the register, so it is stored as it is (42_time_resolver R158). -/
theorem linearUtc_toInt (r : UsecRounding) {t0 : BitVec 64} (c : BitVec 31) (f : BitVec 16) (ht0 : t0InRange t0.toInt) :
    (linearUtc r t0 c f).toInt = t0.toInt + elapsedUs r c f := by
  have hus := elapsedUs_le r c f
  have hfits : fitsSigned64 (t0.toInt + elapsedUs r c f) := by omega
  rw [linearUtc, if_pos hfits]
  exact toInt_ofInt_of_fits (by decide) hfits

/-! ### The calendar -/

/-- The date of day `day` of month `mp` of the year `yoe` of an era, where years begin in March and months are counted from it
(42_time_resolver R165). -/
def dateInEra (era yoe mp day : Int) : CivilDate :=
  let m := if mp < 10 then mp + 3 else mp - 9
  let y := yoe + era * 400
  { year := if m ≤ 2 then y + 1 else y, month := m, day := day }

/-- The corrections by which `civil_from_days` finds the year of a day of an era: the centuries before that year, and the
leap years before it or one more. -/
theorem yearOfEra_parts {doe yoe : Int} (hlow : 0 ≤ doe) (hhigh : doe ≤ 146096)
    (hyoe : yoe = (doe - doe / 1460 + doe / 36524 - doe / 146096) / 365) :
    yoe / 100 = doe / 36524 - doe / 146096 ∧ yoe / 4 ≤ doe / 1460 ∧ doe / 1460 ≤ yoe / 4 + 1 := by
  have hcentury : doe / 36524 = 0 ∨ doe / 36524 = 1 ∨ doe / 36524 = 2 ∨ doe / 36524 = 3 ∨ doe = 146096 := by omega
  exact ⟨by omega, by omega, by omega⟩

/-- A day of a year lies in the month that `civil_from_days` finds for it. -/
theorem monthOfYear_bounds {doy mp : Int} (hlow : 0 ≤ doy) (hhigh : doy ≤ 365) (hmp : mp = (5 * doy + 2) / 153) :
    0 ≤ mp ∧ mp ≤ 11 ∧ 1 ≤ doy - (153 * mp + 2) / 5 + 1 ∧ doy - (153 * mp + 2) / 5 + 1 ≤ 31 := by
  omega

/-- `civil_from_days` gives a date of an era whose days, counted from the era's first, add up to the day number. -/
theorem civilFromDays_eq_dateInEra (z : Int) :
    ∃ era yoe mp day, 0 ≤ yoe ∧ yoe ≤ 399 ∧ 0 ≤ mp ∧ mp ≤ 11 ∧ 1 ≤ day ∧ day ≤ 31 ∧
      z + 719468 = era * 146097 + (yoe * 365 + yoe / 4 - yoe / 100 + ((153 * mp + 2) / 5 + day - 1)) ∧
      civilFromDays z = dateInEra era yoe mp day := by
  obtain ⟨doe, hdoe⟩ : ∃ doe, doe = z + 719468 - (z + 719468) / 146097 * 146097 := ⟨_, rfl⟩
  have hlow : 0 ≤ doe := by omega
  have hhigh : doe ≤ 146096 := by omega
  obtain ⟨yoe, hyoe⟩ : ∃ yoe, yoe = (doe - doe / 1460 + doe / 36524 - doe / 146096) / 365 := ⟨_, rfl⟩
  obtain ⟨hyear, hyear'⟩ := hyoe ▸ yearOfEra_bounds hlow hhigh
  have hparts := yearOfEra_parts hlow hhigh hyoe
  obtain ⟨doy, hdoy⟩ : ∃ doy, doy = doe - (365 * yoe + yoe / 4 - yoe / 100) := ⟨_, rfl⟩
  obtain ⟨hmp, hmp', hday, hday'⟩ := monthOfYear_bounds (doy := doy) (by omega) (by omega) rfl
  refine ⟨(z + 719468) / 146097, yoe, _, _, hyear, hyear', hmp, hmp', hday, hday', by omega, ?_⟩
  rw [hdoy, hyoe, hdoe]
  rfl

theorem dateInEra_month_bounds (era yoe day : Int) {mp : Int} (hmp : 0 ≤ mp) (hmp' : mp ≤ 11) :
    1 ≤ (dateInEra era yoe mp day).month ∧ (dateInEra era yoe mp day).month ≤ 12 := by
  simp only [dateInEra]
  split <;> omega

/-- `days_from_civil` counts the days of a date of an era: March to December lie in the calendar year in which that year of the
era begins, January and February in the one after it. -/
theorem daysFromCivil_dateInEra (era day : Int) {yoe mp : Int} (hyoe : 0 ≤ yoe) (hyoe' : yoe ≤ 399) (hmp : 0 ≤ mp)
    (hmp' : mp ≤ 11) :
    daysFromCivil (dateInEra era yoe mp day) =
      era * 146097 + (yoe * 365 + yoe / 4 - yoe / 100 + ((153 * mp + 2) / 5 + day - 1)) - 719468 := by
  have hera : (yoe + era * 400) / 400 = era := by omega
  simp only [daysFromCivil, dateInEra]
  by_cases hmarch : mp < 10
  · have hlate : ¬ mp + 3 ≤ 2 := by omega
    have hlate' : 2 < mp + 3 := by omega
    simp only [if_pos hmarch, if_neg hlate, if_pos hlate', hera, Int.add_sub_cancel]
  · have hearly : mp - 9 ≤ 2 := by omega
    have hearly' : ¬ 2 < mp - 9 := by omega
    simp only [if_neg hmarch, if_pos hearly, if_neg hearly', hera, Int.add_sub_cancel, Int.sub_add_cancel]

/-! ### The time policy, by what its inputs choose -/

section TimePolicy

variable {s : State} {d : DfhGroup} {t0v : BitVec 1} {t0 : InputReg 64} {u : UtcGroup} {eph : EphPort}

theorem TimeResult.of_unsynchronized (h : TimeResult s d t0v t0 u eph) (hsync : d.syncBit = 1) : u = ⟨0, 0⟩ ∧ eph = s.eph := by
  rcases h with ⟨-, hu, heph⟩ | ⟨hno, -⟩ | ⟨hno, -⟩
  · exact ⟨hu, heph⟩
  · exact absurd (hsync.symm.trans hno) (by decide)
  · exact absurd (hsync.symm.trans hno) (by decide)

theorem TimeResult.of_t0 (h : TimeResult s d t0v t0 u eph) (hsync : d.syncBit = 0) (hvalid : t0v = 1) :
    u = ⟨1, linearUtc s.cfg.usecRounding t0.value d.coarse d.fine⟩ ∧ eph = s.eph := by
  rcases h with ⟨hno, -⟩ | ⟨-, -, -, hu, heph⟩ | ⟨-, hno, -⟩
  · exact absurd (hsync.symm.trans hno) (by decide)
  · exact ⟨hu, heph⟩
  · exact absurd (hvalid.symm.trans hno) (by decide)

theorem TimeResult.of_no_t0 (h : TimeResult s d t0v t0 u eph) (hsync : d.syncBit = 0) (hvalid : t0v = 0) :
    s.inp.missionKnown = 1 ∧ (s.ephAnswer (ephRequest s.inp.missionId.value d.coarse d.fine)).ok = 1 ∧
      u = ⟨2, (s.ephAnswer (ephRequest s.inp.missionId.value d.coarse d.fine)).cal⟩ ∧
      eph = ⟨s.eph.answers.tail, ephRequest s.inp.missionId.value d.coarse d.fine :: s.eph.requests⟩ := by
  rcases h with ⟨hno, -⟩ | ⟨-, hno, -⟩ | ⟨-, -, hknown, -, hok, hu, heph⟩
  · exact absurd (hsync.symm.trans hno) (by decide)
  · exact absurd (hvalid.symm.trans hno) (by decide)
  · exact ⟨hknown, hok, hu, heph⟩

end TimePolicy

/-! ### The commands, where nothing stops them -/

theorem execTres_of_t0 {s : State} (hvalid : s.inp.t0Valid = 1) (hready : CommandReady .tres s) :
    execTres s = .next { s with
      stat := .success 0 0x010
      utc := ⟨1, linearUtc s.cfg.usecRounding s.inp.t0Us.value s.inp.scetInCoarse.value s.inp.scetInFine.value⟩ } := by
  rcases execTres_cases s with ⟨-, -, -, -, e⟩ | ⟨hno, -⟩ | ⟨hno, -⟩ | ⟨hno, -⟩ | ⟨hno, -⟩
  · exact e
  · exact absurd (hvalid.symm.trans hno) (by decide)
  · exact absurd (hvalid.symm.trans hno) (by decide)
  · exact absurd (hvalid.symm.trans hno) (by decide)
  · exact absurd hready hno

theorem execTres_of_unknown_mission {s : State} (hvalid : s.inp.t0Valid = 0) (hknown : s.inp.missionKnown = 0) :
    execTres s = .next { s with stat := .failure 0 2 7 0 0 1 0 } := by
  rcases execTres_cases s with ⟨hno, -⟩ | ⟨-, -, e⟩ | ⟨-, hno, -⟩ | ⟨-, hno, -⟩ | ⟨hno, -⟩
  · exact absurd (hvalid.symm.trans hno) (by decide)
  · exact e
  · exact absurd (hknown.symm.trans hno) (by decide)
  · exact absurd (hknown.symm.trans hno) (by decide)
  · refine absurd ?_ hno
    simp [CommandReady, State.timeInputsHeld, hvalid, hknown]

/-- With its inputs held DDFH decodes the fields; then its time policy has a result, or raises for an unknown mission, or for
a service that fails. -/
theorem execDdfh_of_inputs_held {s : State} (hlen : 10 ≤ s.inp.bufLen.toNat) (hbuf : s.bufHolds 10) (htime : s.timeInputsHeld) :
    (∃ u eph, TimeResult s (dfhFields s.buf 0) s.inp.t0Valid s.inp.t0Us u eph ∧
      execDdfh s = .next { s with stat := .success 0 0x018, dfh := dfhFields s.buf 0, utc := u, eph := eph }) ∨
    (s.inp.t0Valid = 0 ∧ s.inp.missionKnown = 0 ∧
      execDdfh s = .next { s with stat := .failure 0 2 5 0 0 1 0x008, dfh := dfhFields s.buf 0 }) ∨
    (s.inp.t0Valid = 0 ∧ s.inp.missionKnown = 1 ∧
      (s.ephAnswer (ephRequest s.inp.missionId.value (dfhFields s.buf 0).coarse (dfhFields s.buf 0).fine)).ok = 0 ∧
      execDdfh s = .next { s with
        stat := .failure 0 2 5 0 0 2 0x008
        dfh := dfhFields s.buf 0
        eph := ⟨s.eph.answers.tail,
          ephRequest s.inp.missionId.value (dfhFields s.buf 0).coarse (dfhFields s.buf 0).fine :: s.eph.requests⟩ }) := by
  rcases execDdfh_cases s with ⟨hshort, -⟩ | ⟨-, -, h⟩ | ⟨-, -, -, hvalid, hknown, e⟩ | ⟨-, -, -, hvalid, hknown, -, hok, e⟩ |
    ⟨-, -, -, hmissing, -⟩ | ⟨-, a, ha, hnone, -⟩
  · omega
  · exact .inl h
  · exact .inr (.inl ⟨hvalid, hknown, e⟩)
  · exact .inr (.inr ⟨hvalid, hknown, hok, e⟩)
  · exact absurd htime hmissing
  · exact absurd hnone (read_ne_none_of_bufHolds hbuf ha)

theorem State.packetT0Valid_of_known {s : State} (hknown : s.inp.missionKnown = 1) : s.packetT0Valid = s.inp.t0Valid :=
  if_neg (by rw [hknown]; decide)

/-- The status of a whole packet of a known mission whose length is right, or is not checked. -/
theorem State.packetStatus_of_known {s : State} (hknown : s.inp.missionKnown = 1)
    (hlength : s.cfg.checkLength = false ∨ s.inp.bufLen.toNat - 6 = (lenFields s.buf 32).pktLen.toNat) :
    s.packetStatus = .success 0 0x0FF := by
  have hpass : ¬ (s.cfg.checkLength = true ∧ s.inp.bufLen.toNat - 6 ≠ (lenFields s.buf 32).pktLen.toNat) := by
    rintro ⟨hon, hwrong⟩
    rcases hlength with hoff | hright
    · exact absurd (hoff.symm.trans hon) (by decide)
    · exact hwrong hright
  rw [State.packetStatus, if_neg hpass, hknown]
  rfl

/-- DPKT of a known mission without `t0` decodes the whole packet unless it asks a service that fails. -/
theorem execDpkt_of_no_t0 {s : State} (hlen : 16 ≤ s.inp.bufLen.toNat) (hbuf : s.bufHolds 16)
    (hknown : s.inp.missionKnown = 1) (hmission : s.inp.missionId.held = true) (hvalid : s.inp.t0Valid = 0)
    (hanswer : (dfhFields s.buf 48).syncBit = 1 ∨
      (s.ephAnswer (ephRequest s.inp.missionId.value (dfhFields s.buf 48).coarse (dfhFields s.buf 48).fine)).ok = 1) :
    ∃ u eph, TimeResult s (dfhFields s.buf 48) 0 s.packetT0 u eph ∧
      execDpkt s = .next { s with
        stat := s.packetStatus
        pid := pidFields s.buf 0, psc := pscFields s.buf 16, len := lenFields s.buf 32, dfh := dfhFields s.buf 48
        pay := ⟨16, s.inp.bufLen - 16⟩, pktMissionId := s.inp.missionId.value, utc := u, eph := eph } := by
  rcases execDpkt_cases s with ⟨hshort, -⟩ | ⟨-, -, -, u, eph, htime, e⟩ | ⟨-, -, -, -, -, hsync, hfailed, -⟩ |
    ⟨-, -, hheld | ⟨hno, -⟩, -⟩ | ⟨-, a, ha, hnone, -⟩
  · omega
  · rw [State.packetT0Valid_of_known hknown, hvalid] at htime
    exact ⟨u, eph, htime, e⟩
  · rcases hanswer with hno | hno
    · exact absurd (hsync.symm.trans hno) (by decide)
    · exact absurd (hfailed.symm.trans hno) (by decide)
  · exact absurd (hmission.symm.trans hheld) (by decide)
  · exact absurd (hvalid.symm.trans hno) (by decide)
  · exact absurd hnone (read_ne_none_of_bufHolds hbuf ha)

/-! ### The ephemeris port -/

/-- Between `s` and `t` one request was made, for the pair `c`, `f`, as the ephemeris strategy makes it (42_time_resolver
R152, R160). -/
structure OneRequest (s t : State) (c : BitVec 31) (f : BitVec 16) : Prop where
  noT0 : s.inp.t0Valid = 0
  known : s.inp.missionKnown = 1
  port : t.eph = ⟨s.eph.answers.tail, ephRequest s.inp.missionId.value c f :: s.eph.requests⟩

theorem exec_eph_of_not_mem {i : Instr} {s t : State} (hi : i ∉ [Instr.tres, .ddfh, .dpkt]) (h : exec i s = .next t) :
    t.eph = s.eph := by
  cases i with
  | tres | ddfh | dpkt => simp at hi
  | clr =>
    cases (execClr_eq s).symm.trans h
    rfl
  | reserved code =>
    cases (execReserved_eq code s).symm.trans h
    rfl
  | bfx =>
    rcases execBfx_cases s with
      ⟨-, e⟩ | ⟨-, _, -, -, e⟩ | ⟨-, _, -, e⟩ | ⟨-, -, e⟩ | ⟨-, -, -, e⟩ | ⟨-, -, _, -, -, e⟩ <;> cases e.symm.trans h <;> rfl
  | dpid => rcases execDpid_cases s with ⟨-, e⟩ | ⟨-, -, e⟩ | ⟨-, _, -, -, e⟩ <;> cases e.symm.trans h <;> rfl
  | dpsc => rcases execDpsc_cases s with ⟨-, e⟩ | ⟨-, -, e⟩ | ⟨-, _, -, -, e⟩ <;> cases e.symm.trans h <;> rfl
  | dsph => rcases execDsph_cases s with ⟨-, e⟩ | ⟨-, -, e⟩ | ⟨-, _, -, -, e⟩ <;> cases e.symm.trans h <;> rfl

theorem execTres_eph {s t : State} (h : execTres s = .next t) :
    t.eph = s.eph ∨ OneRequest s t s.inp.scetInCoarse.value s.inp.scetInFine.value := by
  rcases execTres_cases s with ⟨-, -, -, -, e⟩ | ⟨-, -, e⟩ | ⟨hvalid, hknown, -, -, -, -, e⟩ |
    ⟨hvalid, hknown, -, -, -, -, e⟩ | ⟨-, _, -, e⟩ <;> cases e.symm.trans h
  · exact .inl rfl
  · exact .inl rfl
  · exact .inr ⟨hvalid, hknown, rfl⟩
  · exact .inr ⟨hvalid, hknown, rfl⟩

theorem execDdfh_eph {s t : State} (h : execDdfh s = .next t) :
    t.eph = s.eph ∨ (OneRequest s t t.dfh.coarse t.dfh.fine ∧ t.dfh.syncBit = 0) := by
  rcases execDdfh_cases s with ⟨-, e⟩ | ⟨-, -, _, _, htime, e⟩ | ⟨-, -, -, -, -, e⟩ | ⟨-, -, hsync, hvalid, hknown, -, -, e⟩ |
    ⟨-, -, -, -, _, -, e⟩ | ⟨-, _, -, -, e⟩ <;> cases e.symm.trans h
  · exact .inl rfl
  · exact htime.port.imp_right fun ⟨hvalid, hknown, hsync, hport⟩ => ⟨⟨hvalid, hknown, hport⟩, hsync⟩
  · exact .inl rfl
  · exact .inr ⟨⟨hvalid, hknown, rfl⟩, hsync⟩

theorem execDpkt_eph {s t : State} (h : execDpkt s = .next t) :
    t.eph = s.eph ∨ (OneRequest s t t.dfh.coarse t.dfh.fine ∧ t.dfh.syncBit = 0) := by
  rcases execDpkt_cases s with
    ⟨-, e⟩ | ⟨-, -, -, _, _, htime, e⟩ | ⟨-, -, hvalid, hknown, -, hsync, -, e⟩ | ⟨-, -, -, _, -, e⟩ | ⟨-, _, -, -, e⟩ <;>
    cases e.symm.trans h
  · exact .inl rfl
  · refine htime.port.imp_right fun ⟨hvalid, hknown, hsync, hport⟩ => ⟨⟨?_, hknown, hport⟩, hsync⟩
    rwa [State.packetT0Valid_of_known hknown] at hvalid
  · exact .inr ⟨⟨hvalid, hknown, rfl⟩, hsync⟩

end Sys2Proof.Machine

open Sys2Proof Sys2Proof.Machine

/-- Settles O31, by the bounds of either rounding and the ties of a fraction. -/
theorem microsecondsRoundAsStated : Obligations.MicrosecondsRoundAsStated := by
  refine ⟨fun n d hd => ?_, fun r c f => ⟨fraction_tie_iff _, rdiv_fraction_le r f, rfl, elapsedUs_le r c f⟩⟩
  rw [Nat.mul_assoc]
  obtain ⟨hbelow, habove⟩ := rdiv_halfEven_nearest n hd
  obtain ⟨hfloor, hnext⟩ := rdiv_truncate_floor n hd
  exact ⟨hbelow, habove, rdiv_halfEven_even_of_tie, hfloor, hnext⟩

/-- Settles O32: the elapsed time is too short to take a legal `T0_US` out of the register. -/
theorem linearSumIsExactInRange : Obligations.LinearSumIsExactInRange := by
  intro r t0 c f ht0
  have hus := elapsedUs_le r c f
  exact ⟨linearUtc_toInt r c f ht0, by omega, by omega⟩

/-- Settles O33, by the linear strategy's sum. -/
theorem tresLinearAddsElapsedTime : Obligations.TresLinearAddsElapsedTime := by
  intro s hvalid ht0 hcoarse hfine hrange
  have hready : CommandReady .tres s := by simp [CommandReady, State.timeInputsHeld, hvalid, ht0, hcoarse, hfine]
  exact ⟨_, execTres_of_t0 hvalid hready, rfl, linearUtc_toInt _ _ _ hrange, rfl, rfl⟩

/-- Settles O34: with its inputs held and a known mission TRES fails or succeeds as the service does. -/
theorem tresEphemerisAsksTheService : Obligations.TresEphemerisAsksTheService := by
  refine ⟨fun s => execTres_of_unknown_mission, fun s hvalid hknown hmission hcoarse hfine => ?_⟩
  rcases execTres_cases s with ⟨hno, -⟩ | ⟨-, hno, -⟩ | ⟨-, -, -, -, -, hok, e⟩ | ⟨-, -, -, -, -, hok, e⟩ | ⟨hno, -⟩
  · exact absurd (hvalid.symm.trans hno) (by decide)
  · exact absurd (hknown.symm.trans hno) (by decide)
  · exact ⟨_, e, rfl, rfl, fun hyes => absurd (hok.symm.trans hyes) (by decide), fun _ => ⟨rfl, rfl⟩, rfl⟩
  · exact ⟨_, e, rfl, rfl, fun _ => ⟨rfl, rfl⟩, fun hno => absurd (hok.symm.trans hno) (by decide), rfl⟩
  · refine absurd ?_ hno
    simp [CommandReady, State.timeInputsHeld, hvalid, hmission, hcoarse, hfine]

/-- Settles O37: the time policy of a synchronized header, and the linear strategy's sum. -/
theorem ddfhSynchronizedLinear : Obligations.DdfhSynchronizedLinear := by
  intro s hlen hbuf htop hvalid ht0 hrange
  have hsync := (dfhFields_syncBit_eq_zero_iff s.buf 0).mpr htop
  have htime : s.timeInputsHeld := by simp [State.timeInputsHeld, hvalid, ht0]
  rcases execDdfh_of_inputs_held hlen hbuf htime with ⟨u, eph, h, e⟩ | ⟨hno, -⟩ | ⟨hno, -⟩
  · obtain ⟨rfl, rfl⟩ := h.of_t0 hsync hvalid
    exact ⟨_, e, rfl, rfl, linearUtc_toInt _ _ _ hrange, rfl, rfl⟩
  · exact absurd (hvalid.symm.trans hno) (by decide)
  · exact absurd (hvalid.symm.trans hno) (by decide)

/-- Settles O38: of the three ends of DDFH, each clause's inputs leave one. -/
theorem ddfhEphemerisAndItsErrors : Obligations.DdfhEphemerisAndItsErrors := by
  intro s hlen hbuf htop hvalid
  have hsync := (dfhFields_syncBit_eq_zero_iff s.buf 0).mpr htop
  refine ⟨fun hknown => ?_, fun hknown hmission hok => ?_, fun hknown hmission hok => ?_⟩
  · have htime : s.timeInputsHeld := by simp [State.timeInputsHeld, hvalid, hknown]
    rcases execDdfh_of_inputs_held hlen hbuf htime with ⟨u, eph, h, -⟩ | ⟨-, -, e⟩ | ⟨-, hno, -⟩
    · exact absurd (hknown.symm.trans (h.of_no_t0 hsync hvalid).1) (by decide)
    · exact e
    · exact absurd (hknown.symm.trans hno) (by decide)
  · have htime : s.timeInputsHeld := by simp [State.timeInputsHeld, hvalid, hmission]
    rcases execDdfh_of_inputs_held hlen hbuf htime with ⟨u, eph, h, -⟩ | ⟨-, hno, -⟩ | ⟨-, -, -, e⟩
    · exact absurd (hok.symm.trans (h.of_no_t0 hsync hvalid).2.1) (by decide)
    · exact absurd (hknown.symm.trans hno) (by decide)
    · exact e
  · have htime : s.timeInputsHeld := by simp [State.timeInputsHeld, hvalid, hmission]
    rcases execDdfh_of_inputs_held hlen hbuf htime with ⟨u, eph, h, e⟩ | ⟨-, hno, -⟩ | ⟨-, -, hno, -⟩
    · obtain ⟨-, -, rfl, rfl⟩ := h.of_no_t0 hsync hvalid
      exact e
    · exact absurd (hknown.symm.trans hno) (by decide)
    · exact absurd (hok.symm.trans hno) (by decide)

/-- Settles O41: the time policy decides the UTC group and the port, the rest is one decode. -/
theorem dpktWithoutEpochCopiesTheAnswer : Obligations.DpktWithoutEpochCopiesTheAnswer := by
  intro s hlen hbuf hknown hmission hvalid hlength
  refine ⟨fun hsync hok => ?_, fun hsync => ?_⟩
  · obtain ⟨u, eph, h, e⟩ := execDpkt_of_no_t0 hlen hbuf hknown hmission hvalid (.inr hok)
    obtain ⟨-, -, rfl, rfl⟩ := h.of_no_t0 hsync rfl
    rw [State.packetStatus_of_known hknown hlength] at e
    exact e
  · obtain ⟨u, eph, h, e⟩ := execDpkt_of_no_t0 hlen hbuf hknown hmission hvalid (.inl hsync)
    obtain ⟨rfl, rfl⟩ := h.of_unsynchronized hsync
    rw [State.packetStatus_of_known hknown hlength] at e
    exact e

/-- Settles O53: three commands can make a request, and each makes one at most. -/
theorem atMostOneEphemerisRequest : Obligations.AtMostOneEphemerisRequest := by
  intro i s t h
  by_cases hi : i ∈ [Instr.tres, .ddfh, .dpkt]
  · have hport : t.eph = s.eph ∨ ∃ c f, OneRequest s t c f ∧
        (i ≠ .tres → c = t.dfh.coarse ∧ f = t.dfh.fine ∧ t.dfh.syncBit = 0) := by
      simp only [List.mem_cons, List.not_mem_nil, or_false] at hi
      rcases hi with rfl | rfl | rfl
      · exact (execTres_eph h).imp_right fun hreq => ⟨_, _, hreq, fun hno => absurd rfl hno⟩
      · exact (execDdfh_eph h).imp_right fun ⟨hreq, hsync⟩ => ⟨_, _, hreq, fun _ => ⟨rfl, rfl, hsync⟩⟩
      · exact (execDpkt_eph h).imp_right fun ⟨hreq, hsync⟩ => ⟨_, _, hreq, fun _ => ⟨rfl, rfl, hsync⟩⟩
    refine hport.imp_right fun ⟨c, f, ⟨hvalid, hknown, hone⟩, hpair⟩ => ?_
    exact ⟨hi, hvalid, hknown, _, hone, rfl, rfl, hpair⟩
  · exact .inl (exec_eph_of_not_mem hi h)

/-- Settles O58: a day number is a date of an era, and `days_from_civil` counts the days of that date. -/
theorem calendarConversionsAgree : Obligations.CalendarConversionsAgree := by
  intro z
  obtain ⟨era, yoe, mp, day, hyoe, hyoe', hmp, hmp', hday, hday', hz, e⟩ := civilFromDays_eq_dateInEra z
  obtain ⟨hmonth, hmonth'⟩ := dateInEra_month_bounds era yoe day hmp hmp'
  rw [e, daysFromCivil_dateInEra era day hyoe hyoe' hmp hmp', ← hz]
  exact ⟨Int.add_sub_cancel z _, hmonth, hmonth', hday, hday'⟩
end

section
/-! PROOFS, part 11. The unsynchronized header, and DPKT of a known mission with `t0`: its time and its length check. -/

namespace Sys2Proof.Machine

theorem dfhFields_syncBit_eq_one_iff (m : Memory) (a : Nat) :
    (dfhFields m (8 * a)).syncBit = 1 ↔ (Memory.byteAt m (a + 4)).getLsbD 7 = true := by
  have hbit : ∀ x : BitVec 1, x = 1 ↔ ¬ x = 0 := by decide
  rw [hbit, dfhFields_syncBit_eq_zero_iff, Bool.not_eq_false]

/-- The payload bounds lose nothing: a whole packet has 16 bytes of headers (44_packet_decoder R204). -/
theorem State.payloadLen_toNat_add {s : State} (hlen : 16 ≤ s.inp.bufLen.toNat) :
    (s.inp.bufLen - 16).toNat + 16 = s.inp.bufLen.toNat := by
  have hle : (16 : BitVec 32) ≤ s.inp.bufLen := BitVec.le_def.mpr hlen
  rw [BitVec.toNat_sub_of_le hle]
  exact Nat.sub_add_cancel hlen

/-- The status of a whole packet of a known mission whose length is checked and wrong (44_packet_decoder R203). -/
theorem State.packetStatus_of_wrong_length {s : State} (hknown : s.inp.missionKnown = 1) (hcheck : s.cfg.checkLength = true)
    (hwrong : s.inp.bufLen.toNat - 6 ≠ (lenFields s.buf 32).pktLen.toNat) :
    s.packetStatus =
      .failure 0 3 6 (8 * (lenFields s.buf 32).pktLen.toNat) (8 * (s.inp.bufLen.toNat - 6)) 0 0x07F := by
  rw [State.packetStatus, if_pos ⟨hcheck, hwrong⟩, hknown]
  rfl

/-- With `t0` the time policy asks nothing. -/
theorem TimeResult.eph_of_t0 {s : State} {d : DfhGroup} {t0 : InputReg 64} {u : UtcGroup} {eph : EphPort}
    (h : TimeResult s d 1 t0 u eph) : eph = s.eph := by
  rcases h.port with heph | ⟨hno, -⟩
  · exact heph
  · exact absurd hno (by decide)

/-- DPKT of a known mission with `t0` decodes the whole packet, its time by the host's `T0_US`, and asks nothing. -/
theorem execDpkt_of_known_t0 {s : State} (hlen : 16 ≤ s.inp.bufLen.toNat) (hbuf : s.bufHolds 16)
    (hknown : s.inp.missionKnown = 1) (hmission : s.inp.missionId.held = true) (hvalid : s.inp.t0Valid = 1)
    (ht0 : s.inp.t0Us.held = true) :
    ∃ u, TimeResult s (dfhFields s.buf 48) 1 s.inp.t0Us u s.eph ∧
      execDpkt s = .next { s with
        stat := s.packetStatus
        pid := pidFields s.buf 0, psc := pscFields s.buf 16, len := lenFields s.buf 32, dfh := dfhFields s.buf 48
        pay := ⟨16, s.inp.bufLen - 16⟩, pktMissionId := s.inp.missionId.value, utc := u } := by
  have hhost : s.packetT0 = s.inp.t0Us := if_neg (by rw [hknown]; decide)
  rcases execDpkt_cases s with ⟨hshort, -⟩ | ⟨-, -, -, u, eph, htime, e⟩ | ⟨-, -, hno, -⟩ |
    ⟨-, -, hheld | ⟨-, hheld, -⟩, -⟩ | ⟨-, a, ha, hnone, -⟩
  · omega
  · rw [State.packetT0Valid_of_known hknown, hvalid, hhost] at htime
    obtain rfl := htime.eph_of_t0
    exact ⟨u, htime, e⟩
  · exact absurd (hvalid.symm.trans hno) (by decide)
  · exact absurd (hmission.symm.trans hheld) (by decide)
  · exact absurd (ht0.symm.trans hheld) (by decide)
  · exact absurd hnone (read_ne_none_of_bufHolds hbuf ha)

end Sys2Proof.Machine

open Sys2Proof Sys2Proof.Machine

/-- Settles O36: every other end of DDFH needs a short buffer, a synchronized header or a missing byte. -/
theorem ddfhUnsynchronizedGivesTheSentinel : Obligations.DdfhUnsynchronizedGivesTheSentinel := by
  intro s hlen hbuf htop
  have hsync := (dfhFields_syncBit_eq_one_iff s.buf 0).mpr htop
  rcases execDdfh_cases s with ⟨hshort, -⟩ | ⟨-, -, u, eph, htime, e⟩ | ⟨-, -, hno, -⟩ | ⟨-, -, hno, -⟩ | ⟨-, -, hno, -⟩ |
    ⟨-, a, ha, hnone, -⟩
  · omega
  · obtain ⟨rfl, rfl⟩ := htime.of_unsynchronized hsync
    exact e
  · exact absurd (hsync.symm.trans hno) (by decide)
  · exact absurd (hsync.symm.trans hno) (by decide)
  · exact absurd (hsync.symm.trans hno) (by decide)
  · exact absurd hnone (read_ne_none_of_bufHolds hbuf ha)

/-- Settles O43: the length check decides the status alone, the time policy the UTC group. -/
theorem dpktLengthCheckIsOptional : Obligations.DpktLengthCheckIsOptional := by
  intro s hlen hbuf hknown hmission hvalid ht0
  obtain ⟨u, htime, e⟩ := execDpkt_of_known_t0 hlen hbuf hknown hmission hvalid ht0
  refine ⟨_, e, State.packetStatus_of_wrong_length hknown, fun _ hright => State.packetStatus_of_known hknown (.inr hright),
    fun hoff => State.packetStatus_of_known hknown (.inl hoff), rfl, rfl, rfl, rfl, rfl, State.payloadLen_toNat_add hlen, rfl,
    fun hsync => (htime.of_unsynchronized hsync).1, fun hsync => ?_, rfl⟩
  obtain ⟨rfl, -⟩ := htime.of_t0 hsync rfl
  exact ⟨rfl, linearUtc_toInt _ _ _⟩

/-- Settles O39: the packet of O43, with the check off and `T0_US` in its range. -/
theorem dpktDecodesAKnownMission : Obligations.DpktDecodesAKnownMission := by
  intro s hlen hbuf hknown hmission hvalid ht0 hrange hcheck
  obtain ⟨t, e, -, -, hstat, hpid, hpsc, hfields, hdfh, hoff, hpay, hid, hsentinel, hlinear, hframe⟩ :=
    dpktLengthCheckIsOptional s hlen hbuf hknown hmission hvalid ht0
  exact ⟨t, e, hpid, hpsc, hfields, hdfh, hoff, hpay, hid, hsentinel,
    fun hsync => (hlinear hsync).imp_right fun hsum => hsum hrange, hstat hcheck, hframe⟩
end

section
/-! PROOFS, part 12. DPKT of an unknown mission, its length check, and the error codes of every command. -/

namespace Sys2Proof.Machine

/-! ### The time policy of a packet -/

/-- With a `t0` that holds a value the time policy has a result, and asks nothing. -/
theorem TimeResult.exists_of_t0 (s : State) (d : DfhGroup) {t0 : InputReg 64} (hheld : t0.held = true) :
    ∃ u, TimeResult s d 1 t0 u s.eph := by
  have hbit : ∀ x : BitVec 1, x = 1 ∨ x = 0 := by decide
  rcases hbit d.syncBit with hsync | hsync
  · exact ⟨_, .inl ⟨hsync, rfl, rfl⟩⟩
  · exact ⟨_, .inr (.inl ⟨hsync, rfl, hheld, rfl, rfl⟩)⟩

/-- The time policy has one result. -/
theorem TimeResult.unique {s : State} {d : DfhGroup} {t0v : BitVec 1} {t0 : InputReg 64} {u u' : UtcGroup} {eph eph' : EphPort}
    (h : TimeResult s d t0v t0 u eph) (h' : TimeResult s d t0v t0 u' eph') : u' = u ∧ eph' = eph := by
  rcases h with ⟨hsync, rfl, rfl⟩ | ⟨hsync, hvalid, -, rfl, rfl⟩ | ⟨hsync, hvalid, -, -, -, rfl, rfl⟩
  · exact h'.of_unsynchronized hsync
  · exact h'.of_t0 hsync hvalid
  · exact (h'.of_no_t0 hsync hvalid).2.2

/-- A result with `t0` for a synchronized header needs the `t0`. -/
theorem TimeResult.t0_held {s : State} {d : DfhGroup} {t0v : BitVec 1} {t0 : InputReg 64} {u : UtcGroup} {eph : EphPort}
    (h : TimeResult s d t0v t0 u eph) (hsync : d.syncBit = 0) (hvalid : t0v = 1) : t0.held = true := by
  rcases h with ⟨hno, -⟩ | ⟨-, -, hheld, -⟩ | ⟨-, hno, -⟩
  · exact absurd (hsync.symm.trans hno) (by decide)
  · exact hheld
  · exact absurd (hvalid.symm.trans hno) (by decide)

/-- Counted from 1970 the time is the elapsed time (44_packet_decoder R199). -/
theorem linearUtc_of_epoch (r : UsecRounding) (c : BitVec 31) (f : BitVec 16) :
    (linearUtc r 0 c f).toInt = elapsedUs r c f := by
  have hepoch : (0 : BitVec 64).toInt = 0 := rfl
  rw [linearUtc_toInt r c f (by rw [hepoch]; decide), hepoch, Int.zero_add]

/-- A synchronized header without a `t0` but the sentinel epoch gets its elapsed time. -/
theorem TimeResult.of_epoch {s : State} {d : DfhGroup} {u : UtcGroup} {eph : EphPort}
    (h : TimeResult s d 1 (.holding 0) u eph) (hsync : d.syncBit = 0) :
    u.utcKind = 1 ∧ u.utcVal.toInt = elapsedUs s.cfg.usecRounding d.coarse d.fine := by
  obtain ⟨rfl, -⟩ := h.of_t0 hsync rfl
  refine ⟨rfl, ?_⟩
  dsimp only [InputReg.holding]
  exact linearUtc_of_epoch ..

/-! ### DPKT, by what its inputs are -/

/-- `s` after a DPKT that has decoded both headers, the payload bounds and the mission, and has ended with the status `st`,
the UTC group `u` and the port `eph`. -/
def State.packetEnd (s : State) (st : StatusRegs) (u : UtcGroup) (eph : EphPort) : State :=
  { s with
    stat := st
    pid := pidFields s.buf 0, psc := pscFields s.buf 16, len := lenFields s.buf 32, dfh := dfhFields s.buf 48
    pay := ⟨16, s.inp.bufLen - 16⟩, pktMissionId := s.inp.missionId.value, utc := u, eph := eph }

/-- The request DPKT makes for the packet in the buffer. -/
def State.packetRequest (s : State) : EphRequest :=
  ephRequest s.inp.missionId.value (dfhFields s.buf 48).coarse (dfhFields s.buf 48).fine

theorem execDpkt_of_short {s : State} (hshort : s.inp.bufLen.toNat < 16) :
    execDpkt s = .next { s with stat := .failure (1 - s.inp.missionKnown) 1 6 128 s.availBits 0 0 } := by
  rcases execDpkt_cases s with ⟨-, e⟩ | ⟨hlen, -⟩ | ⟨hlen, -⟩ | ⟨hlen, -⟩ | ⟨hlen, -⟩
  · exact e
  all_goals omega

/-- DPKT decodes a whole packet for which the time policy has a result. -/
theorem execDpkt_of_timeResult {s : State} {u : UtcGroup} {eph : EphPort} (hlen : 16 ≤ s.inp.bufLen.toNat)
    (hbuf : s.bufHolds 16) (hmission : s.inp.missionKnown = 1 → s.inp.missionId.held = true)
    (htime : TimeResult s (dfhFields s.buf 48) s.packetT0Valid s.packetT0 u eph) :
    execDpkt s = .next (s.packetEnd s.packetStatus u eph) := by
  rcases execDpkt_cases s with ⟨hshort, -⟩ | ⟨-, -, -, u', eph', htime', e⟩ | ⟨-, -, hvalid, hknown, -, hsync, hfailed, -⟩ |
    ⟨-, hknown, hheld | ⟨hvalid, hheld, hsync⟩, -⟩ | ⟨-, a, ha, hnone, -⟩
  · omega
  · obtain ⟨rfl, rfl⟩ := htime.unique htime'
    exact e
  · rw [State.packetT0Valid_of_known hknown] at htime
    obtain ⟨-, hok, -⟩ := htime.of_no_t0 hsync hvalid
    exact absurd (hfailed.symm.trans hok) (by decide)
  · exact absurd ((hmission hknown).symm.trans hheld) (by decide)
  · have hhost : s.packetT0 = s.inp.t0Us := if_neg (by rw [hknown]; decide)
    rw [State.packetT0Valid_of_known hknown, hhost] at htime
    exact absurd ((htime.t0_held hsync hvalid).symm.trans hheld) (by decide)
  · exact absurd hnone (read_ne_none_of_bufHolds hbuf ha)

/-- DPKT of a synchronized packet of a known mission, without `t0`, whose conversion the service fails. -/
theorem execDpkt_of_service_failure {s : State} (hlen : 16 ≤ s.inp.bufLen.toNat) (hbuf : s.bufHolds 16)
    (hknown : s.inp.missionKnown = 1) (hmission : s.inp.missionId.held = true) (hvalid : s.inp.t0Valid = 0)
    (hsync : (dfhFields s.buf 48).syncBit = 0) (hfailed : (s.ephAnswer s.packetRequest).ok = 0) :
    execDpkt s = .next
      (s.packetEnd (.failure 0 2 5 0 0 2 0x06F) s.utc ⟨s.eph.answers.tail, s.packetRequest :: s.eph.requests⟩) := by
  rcases execDpkt_cases s with ⟨hshort, -⟩ | ⟨-, -, -, u, eph, htime, -⟩ | ⟨-, -, -, -, -, -, -, e⟩ |
    ⟨-, -, hheld | ⟨hno, -⟩, -⟩ | ⟨-, a, ha, hnone, -⟩
  · omega
  · rw [State.packetT0Valid_of_known hknown] at htime
    obtain ⟨-, hok, -⟩ := htime.of_no_t0 hsync hvalid
    exact absurd (hfailed.symm.trans hok) (by decide)
  · exact e
  · exact absurd (hmission.symm.trans hheld) (by decide)
  · exact absurd (hvalid.symm.trans hno) (by decide)
  · exact absurd hnone (read_ne_none_of_bufHolds hbuf ha)

/-- DPKT of an unknown mission decodes the whole packet, its time counted from 1970, and asks nothing (44_packet_decoder
R198, R199). -/
theorem execDpkt_of_unknown_mission {s : State} (hlen : 16 ≤ s.inp.bufLen.toNat) (hbuf : s.bufHolds 16)
    (hunknown : s.inp.missionKnown = 0) :
    ∃ u, TimeResult s (dfhFields s.buf 48) 1 (.holding 0) u s.eph ∧
      execDpkt s = .next (s.packetEnd s.packetStatus u s.eph) := by
  obtain ⟨u, htime⟩ := TimeResult.exists_of_t0 s (dfhFields s.buf 48) (t0 := .holding 0) rfl
  have hvalid : s.packetT0Valid = 1 := if_pos hunknown
  have hepoch : s.packetT0 = .holding 0 := if_pos hunknown
  refine ⟨u, htime, execDpkt_of_timeResult hlen hbuf (fun hno => ?_) (by rwa [hvalid, hepoch])⟩
  exact absurd (hunknown.symm.trans hno) (by decide)

/-! ### The length check -/

/-- The status of a whole packet whose length is right, or is not checked (44_packet_decoder R203). -/
theorem State.packetStatus_of_pass {s : State}
    (hpass : s.cfg.checkLength = false ∨ s.inp.bufLen.toNat - 6 = (lenFields s.buf 32).pktLen.toNat) :
    s.packetStatus = .success (1 - s.inp.missionKnown) (writeBit 0x0BF 6 s.inp.missionKnown) := by
  refine if_neg ?_
  rintro ⟨hon, hwrong⟩
  rcases hpass with hoff | hright
  · exact absurd (hoff.symm.trans hon) (by decide)
  · exact hwrong hright

/-- The status of a whole packet whose length is checked and wrong (44_packet_decoder R203). -/
theorem State.packetStatus_of_fail {s : State} (hon : s.cfg.checkLength = true)
    (hwrong : s.inp.bufLen.toNat - 6 ≠ (lenFields s.buf 32).pktLen.toNat) :
    s.packetStatus =
      .failure (1 - s.inp.missionKnown) 3 6 (8 * (lenFields s.buf 32).pktLen.toNat) (8 * (s.inp.bufLen.toNat - 6)) 0
        (writeBit 0x03F 6 s.inp.missionKnown) :=
  if_pos ⟨hon, hwrong⟩

/-- `s` with `CHECK_LENGTH = 1`. -/
def State.checkingLength (s : State) : State := { s with cfg := { s.cfg with checkLength := true } }

theorem StatusRegs.failure_errCode_ne_zero {w : BitVec 1} {code unit : BitVec 3} {req avail : Nat} {cause : BitVec 2}
    {valid : BitVec 9} (hcode : code ≠ 0) : (StatusRegs.failure w code unit req avail cause valid).errCode ≠ 0 := hcode

/-! ### Which command records which error -/

/-- The status registers that command `i`, run from `s`, can end with: no error, or one of its own errors with what stays
valid (60_exceptions R225, R234). -/
inductive CommandStatus (i : Instr) (s : State) : StatusRegs → Prop
  | success (hi : ∀ code, i ≠ .reserved code) (w : BitVec 1) (valid : BitVec 9) : CommandStatus i s (.success w valid)
  | tooShort (hi : i ∈ [.bfx, .dpid, .dpsc, .dsph, .ddfh, .dpkt]) (w : BitVec 1) (unit : BitVec 3) (req avail : Nat) :
    CommandStatus i s (.failure w 1 unit req avail 0 0)
  | timeConversion {cause : BitVec 2} {valid : BitVec 9} (ht0 : s.inp.t0Valid = 0)
    (hi : (i = .tres ∧ valid = 0) ∨ (i = .ddfh ∧ valid = 0x008) ∨ (i = .dpkt ∧ valid = 0x06F))
    (hcause : i = .dpkt → cause ≠ 1) (unit : BitVec 3) : CommandStatus i s (.failure 0 2 unit 0 0 cause valid)
  | consistency (hi : i = .dpkt) (hcheck : s.cfg.checkLength = true) (w : BitVec 1) (req avail : Nat) :
    CommandStatus i s (.failure w 3 6 req avail 0 (writeBit 0x03F 6 s.inp.missionKnown))
  | illegalCommand {code : BitVec 8} (hi : i = .reserved code) : CommandStatus i s (.failure 0 4 0 0 0 0 0)
  | badWidthList (hi : i = .bfx) (req : Nat) : CommandStatus i s (.failure 0 5 1 req 0 0 0)

theorem execBfx_status {s t : State} (h : execBfx s = .next t) : CommandStatus .bfx s t.stat := by
  rcases execBfx_cases s with
    ⟨-, e⟩ | ⟨-, _, -, -, e⟩ | ⟨-, _, -, e⟩ | ⟨-, -, e⟩ | ⟨-, -, -, e⟩ | ⟨-, -, _, -, -, e⟩ <;> cases e.symm.trans h
  · exact .badWidthList rfl _
  · exact .badWidthList rfl _
  · exact .tooShort (by simp) ..
  · exact .success (by simp) ..

theorem execDpid_status {s t : State} (h : execDpid s = .next t) : CommandStatus .dpid s t.stat := by
  rcases execDpid_cases s with ⟨-, e⟩ | ⟨-, -, e⟩ | ⟨-, _, -, -, e⟩ <;> cases e.symm.trans h
  · exact .tooShort (by simp) ..
  · exact .success (by simp) ..

theorem execDpsc_status {s t : State} (h : execDpsc s = .next t) : CommandStatus .dpsc s t.stat := by
  rcases execDpsc_cases s with ⟨-, e⟩ | ⟨-, -, e⟩ | ⟨-, _, -, -, e⟩ <;> cases e.symm.trans h
  · exact .tooShort (by simp) ..
  · exact .success (by simp) ..

theorem execDsph_status {s t : State} (h : execDsph s = .next t) : CommandStatus .dsph s t.stat := by
  rcases execDsph_cases s with ⟨-, e⟩ | ⟨-, -, e⟩ | ⟨-, _, -, -, e⟩ <;> cases e.symm.trans h
  · exact .tooShort (by simp) ..
  · exact .success (by simp) ..

theorem execTres_status {s t : State} (h : execTres s = .next t) : CommandStatus .tres s t.stat := by
  rcases execTres_cases s with ⟨-, -, -, -, e⟩ | ⟨ht0, -, e⟩ | ⟨ht0, -, -, -, -, -, e⟩ | ⟨-, -, -, -, -, -, e⟩ |
    ⟨-, _, -, e⟩ <;> cases e.symm.trans h
  · exact .success (by simp) ..
  · exact .timeConversion ht0 (.inl ⟨rfl, rfl⟩) (by simp) _
  · exact .timeConversion ht0 (.inl ⟨rfl, rfl⟩) (by simp) _
  · exact .success (by simp) ..

theorem execDdfh_status {s t : State} (h : execDdfh s = .next t) : CommandStatus .ddfh s t.stat := by
  rcases execDdfh_cases s with ⟨-, e⟩ | ⟨-, -, _, _, -, e⟩ | ⟨-, -, -, ht0, -, e⟩ | ⟨-, -, -, ht0, -, -, -, e⟩ |
    ⟨-, -, -, -, _, -, e⟩ | ⟨-, _, -, -, e⟩ <;> cases e.symm.trans h
  · exact .tooShort (by simp) ..
  · exact .success (by simp) ..
  · exact .timeConversion ht0 (.inr (.inl ⟨rfl, rfl⟩)) (by simp) _
  · exact .timeConversion ht0 (.inr (.inl ⟨rfl, rfl⟩)) (by simp) _

/-- A DPKT that has decoded everything succeeds, or fails the length check. -/
theorem State.packetStatus_commandStatus (s : State) : CommandStatus .dpkt s s.packetStatus := by
  unfold State.packetStatus
  split
  · rename_i hfail
    exact .consistency rfl hfail.1 ..
  · exact .success (by simp) ..

theorem execDpkt_status {s t : State} (h : execDpkt s = .next t) : CommandStatus .dpkt s t.stat := by
  rcases execDpkt_cases s with
    ⟨-, e⟩ | ⟨-, -, -, _, _, -, e⟩ | ⟨-, -, ht0, -, -, -, -, e⟩ | ⟨-, -, -, _, -, e⟩ | ⟨-, _, -, -, e⟩ <;>
    cases e.symm.trans h
  · exact .tooShort (by simp) ..
  · exact s.packetStatus_commandStatus
  · exact .timeConversion ht0 (.inr (.inr ⟨rfl, rfl⟩)) (by decide) _

theorem exec_status {i : Instr} {s t : State} (h : exec i s = .next t) : CommandStatus i s t.stat := by
  cases i with
  | clr =>
    cases (execClr_eq s).symm.trans h
    exact .success (by simp) ..
  | bfx => exact execBfx_status h
  | dpid => exact execDpid_status h
  | dpsc => exact execDpsc_status h
  | dsph => exact execDsph_status h
  | tres => exact execTres_status h
  | ddfh => exact execDdfh_status h
  | dpkt => exact execDpkt_status h
  | reserved code =>
    cases (execReserved_eq code s).symm.trans h
    exact .illegalCommand rfl

end Sys2Proof.Machine

open Sys2Proof Sys2Proof.Machine

/-- Settles O40: the epoch forced on an unknown mission adds nothing to the elapsed time. -/
theorem dpktUnknownMissionForcesTheSentinelEpoch : Obligations.DpktUnknownMissionForcesTheSentinelEpoch := by
  intro s hlen hbuf hunknown
  obtain ⟨u, htime, e⟩ := execDpkt_of_unknown_mission hlen hbuf hunknown
  exact ⟨_, e, rfl, rfl, rfl, rfl, rfl, State.payloadLen_toNat_add hlen, fun hsync => (htime.of_unsynchronized hsync).1,
    htime.of_epoch, fun hpass => (State.packetStatus_of_pass hpass).trans (by rw [hunknown]; rfl),
    fun hon hwrong => (State.packetStatus_of_fail hon hwrong).trans (by rw [hunknown]; rfl), rfl⟩

/-- Settles O42: of the ends of DPKT, these inputs leave the service's failure, which comes before the length check. -/
theorem dpktServiceFailureKeepsTheHeaders : Obligations.DpktServiceFailureKeepsTheHeaders := by
  intro s hlen hbuf hknown hmission hvalid hsync hfailed
  exact execDpkt_of_service_failure hlen hbuf hknown hmission hvalid hsync hfailed

/-- Settles O44: turning the check on leaves the inputs of every end of DPKT as they are; only `packetStatus` looks at it. -/
theorem dpktLengthCheckComesLast : Obligations.DpktLengthCheckComesLast := by
  intro s t hoff h
  rcases execDpkt_cases s with ⟨hshort, e⟩ | ⟨hlen, hbuf, hmission, u, eph, htime, e⟩ |
    ⟨hlen, hbuf, hvalid, hknown, hmission, hsync, hfailed, e⟩ | ⟨-, -, -, _, -, e⟩ | ⟨-, _, -, -, e⟩ <;>
    cases e.symm.trans h
  · exact ⟨fun _ => execDpkt_of_short (s := s.checkingLength) hshort,
      fun hno => absurd hno (StatusRegs.failure_errCode_ne_zero (by decide))⟩
  · have hsuccess := State.packetStatus_of_pass (.inl hoff)
    have hon := execDpkt_of_timeResult (s := s.checkingLength) hlen hbuf hmission htime
    refine ⟨fun hpass => ?_, fun _ hwrong => ?_⟩
    · have hright : s.inp.bufLen.toNat - 6 = (lenFields s.buf 32).pktLen.toNat :=
        hpass.resolve_left fun hno => hno (by rw [hsuccess]; rfl)
      rw [State.packetStatus_of_pass (s := s.checkingLength) (.inr hright)] at hon
      rw [hsuccess]
      exact hon
    · have hcleared : ∀ b : BitVec 1, writeBit (0x03F : BitVec 9) 6 b = writeBit 0x0BF 6 b &&& 0x17F := by decide
      rw [State.packetStatus_of_fail (s := s.checkingLength) rfl hwrong, hcleared] at hon
      rw [hsuccess]
      exact hon
  · exact ⟨fun _ => execDpkt_of_service_failure (s := s.checkingLength) hlen hbuf hknown hmission hvalid hsync hfailed,
      fun hno => absurd hno (StatusRegs.failure_errCode_ne_zero (by decide))⟩

/-- Settles O51, by the status registers each command can end with. -/
theorem eachErrorHasItsCommands : Obligations.EachErrorHasItsCommands := by
  intro i s t h
  have hstatus := exec_status h
  generalize t.stat = st at hstatus
  have hpacket : ∀ b : BitVec 1, writeBit (0x03F : BitVec 9) 6 b = if b = 1 then 0x07F else 0x03F := by decide
  cases hstatus with
  | success hi => simp [StatusRegs.success, hi]
  | tooShort hi =>
    have hnot : ∀ code, i ≠ .reserved code := by rintro code rfl; simp at hi
    simpa [StatusRegs.failure, hnot] using hi
  | timeConversion ht0 hi hcause =>
    have hnot : ∀ code, i ≠ .reserved code := by rintro code rfl; simp at hi
    simpa [StatusRegs.failure, hnot] using ⟨⟨ht0, hi⟩, hcause⟩
  | consistency hi hcheck => simpa [StatusRegs.failure, hi, hcheck] using hpacket s.inp.missionKnown
  | illegalCommand hi => simp [StatusRegs.failure, hi]
  | badWidthList hi => simp [StatusRegs.failure, hi]
end

section
/-! PROOFS, part 13. CLR. -/

open Sys2Proof Sys2Proof.Machine

/-- Settles O23: the status registers CLR leaves do not depend on those it found, so a second CLR writes the same ones. -/
theorem clrClearsStatusAndOutputs : Obligations.ClrClearsStatusAndOutputs := by
  intro s
  refine ⟨execClr_eq s, fun t h => ?_⟩
  cases (execClr_eq s).symm.trans h
  exact execClr_eq _
end

section
/-! PROOFS, part 14. How a command stops: the record of an error, a buffer that is too short, and the refusals. -/

namespace Sys2Proof.Machine

/-! ### The record of an error -/

/-- Of the bits of STATUS, `raise` sets DONE and ERR and leaves the others (60_exceptions R232). -/
theorem State.raise_status_getLsbD (e : ErrKind) (u : ErrUnit) (r a : Nat) (k : ErrCause) (s : State) (j : Nat) :
    (s.raise e u r a k).stat.status.getLsbD j = (decide (j = 0) || decide (j = 1) || s.stat.status.getLsbD j) := by
  rw [State.raise_stat, getLsbD_writeBit _ _ _ _ (by decide), getLsbD_writeBit _ _ _ _ (by decide)]
  by_cases hdone : j = 0
  · simp [hdone]
  · by_cases herr : j = 1 <;> simp [hdone, herr]

/-! ### A buffer that is too short -/

/-- A command that begins with a size check of `n` bytes ends there when the buffer is shorter, whatever follows the check
(60_exceptions R226). -/
theorem finish_needBits_beginCmd_of_short {s : State} {n : Nat} (hshort : s.inp.bufLen.toNat < n) (u : ErrUnit)
    (k : State → Flow) :
    ((needBits u (8 * n) s.beginCmd).andThen k).finish =
      .next { s with stat := .failure 0 1 u.code (8 * n) s.availBits 0 0 } := by
  have hbits : s.beginCmd.availBits < 8 * n := Nat.mul_lt_mul_of_pos_left hshort (by decide)
  rw [needBits_of_lt hbits, Flow.andThen_ended, Flow.finish_ended, State.raise_of_running (w := 0) (v := 0) rfl]
  rfl

theorem execBfx_of_short {s : State} (hlegal : s.widthsLegal) (hshort : s.availBits < s.widthSum) :
    execBfx s = .next { s with stat := .failure 0 1 1 s.widthSum s.availBits 0 0 } := by
  have hscan := scanWidths_of_legal s.cfg.fieldMax 0 s.widthEntries hlegal.2
  rcases execBfx_cases s with ⟨hcnt, -⟩ | ⟨-, i, hno, -⟩ | ⟨-, i, hbad, -⟩ | ⟨-, -, e⟩ | ⟨-, hbits, -⟩ | ⟨-, hbits, -⟩
  · exact absurd hlegal.1 (Nat.not_le_of_lt hcnt)
  · cases hscan.symm.trans hno
  · cases hscan.symm.trans hbad
  · exact e
  · exact absurd hbits (Nat.not_le_of_lt hshort)
  · exact absurd hbits (Nat.not_le_of_lt hshort)

/-! ### Refusals -/

/-- A command never faults: an error is recorded and is a next state (60_exceptions R232). -/
theorem exec_ne_fault (i : Instr) (s : State) (f : Fault) : exec i s ≠ .fault f := by
  cases i with
  | clr => exact Flow.finish_ne_fault (.go s.beginCmd) f
  | reserved code => exact Flow.finish_ne_fault (.ended (s.beginCmd.raise .illegalCommand .none 0 0 .none)) f
  | _ => exact Flow.finish_ne_fault _ f

/-- The refusal names a register or a byte of `BUF` that holds no value in `s` (70_reset_and_hazards R265). -/
inductive NamesMissingValue (s : State) : Refusal → Prop
  | register {n : Nat} (h : s.hostRead n = .refused (.noValueRegister n)) : NamesMissingValue s (.noValueRegister n)
  | byte {a : Nat} (h : Memory.read s.buf a = none) : NamesMissingValue s (.noValueByte a)

theorem namesMissingValue_iff (s : State) (r : Refusal) :
    NamesMissingValue s r ↔ (∃ n, r = .noValueRegister n ∧ s.hostRead n = .refused (.noValueRegister n)) ∨
      ∃ a, r = .noValueByte a ∧ Memory.read s.buf a = none := by
  constructor
  · rintro (h | h)
    · exact .inl ⟨_, rfl, h⟩
    · exact .inr ⟨_, rfl, h⟩
  · rintro (⟨n, rfl, h⟩ | ⟨a, rfl, h⟩)
    · exact .register h
    · exact .byte h

/-- Why command `i` may be refused with `r` from `s`: it is not ready, and `r` names a value that is missing. -/
structure RefusedOverMissing (i : Instr) (s : State) (r : Refusal) : Prop where
  notReady : ¬ CommandReady i s
  names : NamesMissingValue s r

/-- A refusal over a byte among the first `n`, by a command whose readiness asks for those. -/
theorem RefusedOverMissing.of_byte {i : Instr} {s : State} {n a : Nat} (hneeds : CommandReady i s → s.bufHolds n)
    (ha : a < n) (hnone : Memory.read s.buf a = none) : RefusedOverMissing i s (.noValueByte a) :=
  ⟨fun hready => read_ne_none_of_bufHolds (hneeds hready) ha hnone, .byte hnone⟩

theorem execBfx_refused {s : State} {r : Refusal} (h : execBfx s = .refused r) : RefusedOverMissing .bfx s r := by
  rcases execBfx_cases s with ⟨-, e⟩ | ⟨hcnt, i, hscan, hread, e⟩ | ⟨-, _, -, e⟩ | ⟨-, -, e⟩ | ⟨-, -, -, e⟩ |
    ⟨hlegal, hbits, a, ha, hnone, e⟩ <;> cases e.symm.trans h
  · obtain ⟨k, q, -, hq, hheld⟩ := scanWidths_noValue _ _ _ _ hscan
    refine ⟨fun hready => ?_, .register hread⟩
    exact Bool.false_ne_true (hheld.symm.trans ((hready hcnt).1 q (List.mem_of_getElem? hq)))
  · exact .of_byte (fun hready => (hready hlegal.1).2 hbits) ha hnone

theorem execDpid_refused {s : State} {r : Refusal} (h : execDpid s = .refused r) : RefusedOverMissing .dpid s r := by
  rcases execDpid_cases s with ⟨-, e⟩ | ⟨-, -, e⟩ | ⟨hlen, a, ha, hnone, e⟩ <;> cases e.symm.trans h
  exact .of_byte (fun hready => hready hlen) ha hnone

theorem execDpsc_refused {s : State} {r : Refusal} (h : execDpsc s = .refused r) : RefusedOverMissing .dpsc s r := by
  rcases execDpsc_cases s with ⟨-, e⟩ | ⟨-, -, e⟩ | ⟨hlen, a, ha, hnone, e⟩ <;> cases e.symm.trans h
  exact .of_byte (fun hready => hready hlen) ha hnone

theorem execDsph_refused {s : State} {r : Refusal} (h : execDsph s = .refused r) : RefusedOverMissing .dsph s r := by
  rcases execDsph_cases s with ⟨-, e⟩ | ⟨-, -, e⟩ | ⟨hlen, a, ha, hnone, e⟩ <;> cases e.symm.trans h
  exact .of_byte (fun hready => hready hlen) ha hnone

theorem execTres_refused {s : State} {r : Refusal} (h : execTres s = .refused r) : RefusedOverMissing .tres s r := by
  rcases execTres_cases s with ⟨-, -, -, -, e⟩ | ⟨-, -, e⟩ | ⟨-, -, -, -, -, -, e⟩ | ⟨-, -, -, -, -, -, e⟩ |
    ⟨hnot, n, hread, e⟩ <;> cases e.symm.trans h
  exact ⟨hnot, .register hread⟩

theorem execDdfh_refused {s : State} {r : Refusal} (h : execDdfh s = .refused r) : RefusedOverMissing .ddfh s r := by
  rcases execDdfh_cases s with ⟨-, e⟩ | ⟨-, -, u, eph, -, e⟩ | ⟨-, -, -, -, -, e⟩ | ⟨-, -, -, -, -, -, -, e⟩ |
    ⟨hlen, -, hsync, hmissing, n, hread, e⟩ | ⟨hlen, a, ha, hnone, e⟩ <;> cases e.symm.trans h
  · exact ⟨fun hready => hmissing ((hready hlen).2 ((dfhFields_syncBit_eq_zero_iff s.buf 0).mp hsync)), .register hread⟩
  · exact .of_byte (fun hready => (hready hlen).1) ha hnone

theorem execDpkt_refused {s : State} {r : Refusal} (h : execDpkt s = .refused r) : RefusedOverMissing .dpkt s r := by
  rcases execDpkt_cases s with ⟨-, e⟩ | ⟨-, -, -, u, eph, -, e⟩ | ⟨-, -, -, -, -, -, -, e⟩ |
    ⟨hlen, hknown, hmissing, n, hread, e⟩ | ⟨hlen, a, ha, hnone, e⟩ <;> cases e.symm.trans h
  · refine ⟨fun hready => ?_, .register hread⟩
    obtain ⟨hmission, ht0⟩ := (hready hlen).2 hknown
    rcases hmissing with hheld | ⟨hvalid, hheld, -⟩
    · exact Bool.false_ne_true (hheld.symm.trans hmission)
    · exact Bool.false_ne_true (hheld.symm.trans (ht0 hvalid))
  · exact .of_byte (fun hready => (hready hlen).1) ha hnone

theorem exec_refused {i : Instr} {s : State} {r : Refusal} (h : exec i s = .refused r) : RefusedOverMissing i s r := by
  cases i with
  | clr => cases (execClr_eq s).symm.trans h
  | bfx => exact execBfx_refused h
  | dpid => exact execDpid_refused h
  | dpsc => exact execDpsc_refused h
  | dsph => exact execDsph_refused h
  | tres => exact execTres_refused h
  | ddfh => exact execDdfh_refused h
  | dpkt => exact execDpkt_refused h
  | reserved code => cases (execReserved_eq code s).symm.trans h

end Sys2Proof.Machine

open Sys2Proof Sys2Proof.Machine

/-- Settles O27: the size check comes before the buffer is looked at; BFX has read its width list by then. -/
theorem shortBuffersFailWhole : Obligations.ShortBuffersFailWhole := by
  intro s
  refine ⟨execBfx_of_short, fun hshort => ?_, fun hshort => ?_, fun hshort => ?_, fun hshort => ?_, execDpkt_of_short⟩
  · exact finish_needBits_beginCmd_of_short hshort .pid _
  · exact finish_needBits_beginCmd_of_short hshort .psc _
  · exact finish_needBits_beginCmd_of_short hshort .sph _
  · exact finish_needBits_beginCmd_of_short hshort .dfh _

/-- Settles O49, by the refusals of each command. -/
theorem commandsStopOnlyForMissingValues : Obligations.CommandsStopOnlyForMissingValues := by
  refine fun i s => ⟨exec_ne_fault i s, fun r h => ?_⟩
  obtain ⟨hnot, hnames⟩ := exec_refused h
  exact ⟨hnot, (namesMissingValue_iff s r).mp hnames⟩

/-- Settles O5: a step makes a move only where one is pending. -/
theorem idleStepHoldsTheState : Obligations.IdleStepHoldsTheState := by
  intro s hidle
  rcases step_cases s with ⟨-, e⟩ | ⟨a, rest, hhost, -⟩
  · exact e
  · cases hidle.symm.trans hhost

/-- Settles O19: the bits of STATUS one by one, and the record as it was written. -/
theorem raiseRecordsTheErrorAndNothingElse : Obligations.RaiseRecordsTheErrorAndNothingElse := by
  intro e u req avail k s
  have hbit := State.raise_status_getLsbD e u req avail k s
  exact ⟨hbit 0, hbit 1, hbit 2, rfl, rfl, rfl, rfl, rfl, rfl, rfl⟩
end

section
/-! PROOFS, part 15. The block right after a reset, and the commands whose inputs hold values. -/

namespace Sys2Proof.Machine

/-- The registers that have a reset value (70_reset_and_hazards R260). -/
def Reg.withResetValue : List Reg :=
  [.bufLen, .missionKnown, .t0Valid, .wlCnt, .status, .errCode, .errUnit, .errReqBits, .errAvailBits, .errCause, .valid]

/-- After reset no entry of the width list holds a value. -/
theorem State.wlEntry_resetWith (c : Config) (eph : EphPort) (host : List HostAction) (i : Nat) :
    (State.resetWith c eph host).wlEntry i = .unwritten 8 := by
  rw [State.wlEntry, State.resetWith, Inputs.reset, Vector.toList_replicate]
  rw [List.getD_eq_getElem?_getD, List.getElem?_replicate]
  split <;> rfl

/-- After reset no output group is valid. -/
theorem State.isValid_resetWith (c : Config) (eph : EphPort) (host : List HostAction) (g : Group) :
    (State.resetWith c eph host).isValid g = false := by
  simp [State.isValid, State.resetWith, StatusRegs.reset]

/-- After reset a register returns a value only if it has a reset value (70_reset_and_hazards R260). -/
theorem State.mem_withResetValue_of_readReg_resetWith {c : Config} {eph : EphPort} {host : List HostAction} {n : Nat}
    {r : Reg} {v : Int} (h : (State.resetWith c eph host).readReg n r = .next v) : r ∈ Reg.withResetValue := by
  cases r with
  | bufLen | missionKnown | t0Valid | wlCnt | status | errCode | errUnit | errReqBits | errAvailBits | errCause | valid =>
    decide
  | cmd | missionId | t0Us | scetInCoarse | scetInFine => cases h
  | wl i =>
    simp only [State.readReg, State.wlEntry_resetWith] at h
    cases h
  | _ => cases (State.readReg_of_invalid rfl (State.isValid_resetWith ..) n).symm.trans h

/-- After reset no byte of `BUF` holds a value (70_reset_and_hazards R260). -/
theorem State.hostReadByte_resetWith_ne_next (c : Config) (eph : EphPort) (host : List HostAction) (a : Nat) (v : Int) :
    (State.resetWith c eph host).hostReadByte a ≠ .next v := by
  unfold State.hostReadByte
  split
  · exact nofun
  · exact nofun

end Sys2Proof.Machine

open Sys2Proof Sys2Proof.Machine

/-- Settles O48: a command never faults, and is refused only when it is not ready (O49). -/
theorem readyCommandsComplete : Obligations.ReadyCommandsComplete := by
  intro i s hready
  obtain ⟨hfault, hrefused⟩ := commandsStopOnlyForMissingValues i s
  cases h : exec i s with
  | next t => exact ⟨t, rfl⟩
  | fault f => exact absurd h (hfault f)
  | refused r => exact absurd hready (hrefused r h).1

/-- Settles O16: the registers with a reset value are read off, and no other register is read from the state after reset. -/
theorem resetReadsAsTheSpecSays : Obligations.ResetReadsAsTheSpecSays := by
  refine ⟨fun n hn => ?_, fun n hn v h => ?_, State.hostReadByte_resetWith_ne_next _ _ _⟩
  · fin_cases hn <;> rfl
  · cases hr : regOfNumber State.reset.cfg n with
    | none => cases (State.hostRead_of_unimplemented hr).symm.trans h
    | some r =>
      have hmem := State.mem_withResetValue_of_readReg_resetWith ((State.hostRead_of_reg hr).symm.trans h)
      exact hn ((eq_regNumber hr).1 ▸ List.mem_map_of_mem (f := regNumber) hmem)

/-- Settles O17: the move is taken off the host's list, and the rest of the block is as after reset. -/
theorem resetMoveGivesTheResetState : Obligations.ResetMoveGivesTheResetState := fun _ _ h => step_of_host_eq_cons h
end
